-- ==== Sys2Proof/Word.lean ====
section
/-! DEFINITION. The word types of CORE (rule R6: every value is unsigned). -/

namespace Sys2Proof

/-- One byte: a V register, a timer, a memory cell (rules R10, R17, R40). -/
abbrev Byte := BitVec 8

/-- Sixteen bits: `I`, `PC`, a stack entry, an instruction word, a key vector (rules R12, R13, R15, R20, R24). -/
abbrev Word := BitVec 16

/-- A 4-bit field: a register index or a nibble (rules R10, R61). All sixteen values are legal (rule R65). -/
abbrev Nibble := Fin 16

/-- The 12-bit field `NNN` (rule R61). -/
abbrev Addr12 := BitVec 12

/-- `zext_16` of `NNN` (rule R65: never sign-extended, never scaled). -/
abbrev zext16 (a : Addr12) : Word := a.setWidth 16

end Sys2Proof
end

