-- ==== Sys2Proof/Config.lean ====
section
/-! DEFINITION. What is fixed for CORE by its source document (rule R5, status "fixed"), the type of the quirks record
(rule R22) and the one free value, the random byte. The parameters that are decisions of the spec (stack depth, font bytes, memory
fill, default quirks) stand in Machine/Params.lean. -/

namespace Sys2Proof

namespace Config

/-- `MEM_SIZE`: addresses 0x000..0xFFF (rules R5, R40). -/
def memSize : Nat := 4096

/-- `FONT_BASE` (rules R5, R42). -/
def fontBase : Nat := 0x050

/-- Sixteen glyphs of five bytes (rule R42). -/
def fontSize : Nat := 80

/-- `ROM_BASE`, also the reset value of `PC` (rules R5, R13, R191). -/
def romBase : Nat := 0x200

/-- `ROM_MAX` = 4096 - 0x200 (rules R5, R192). -/
def romMax : Nat := 3584

/-- `DISP_W` (rules R5, R19). -/
def dispW : Nat := 64

/-- `DISP_H` (rules R5, R19). -/
def dispH : Nat := 32

/-- `random_byte()` of the source: a free value under no law (rules R26, R111, R183). It has no body, so no proof can know a
value of it. Its argument is the number of random bytes drawn before (`State.draws`). It answers only where the host has put no
byte into `State.rndIn`. Assumption log entry 3. -/
opaque randomByte : Nat → Byte

end Config

/-- The quirks record `q`: four named booleans, fixed for a run (rule R22). -/
structure Quirks where
  shiftUsesVy : Bool
  jumpUsesVx : Bool
  indexAutoincrement : Bool
  indexOverflowFlag : Bool
  deriving DecidableEq, Repr

end Sys2Proof
end

