-- ==== Sys2Proof/Syntax.lean ====
section
/-! DEFINITION. The abstract syntax: one constructor per row of the opcode map (rule R67, spec/opcode_table.json), and the record of the
six views of an instruction word (rule R61). Every operand's bound is its type: all values of every field are legal (rule R65). -/

namespace Sys2Proof

/-- The 34 instructions of rule R67, in the order of its table. `x`, `y` are the register indices `X`, `Y`; `nn`, `nnn`, `n` the
immediates `NN`, `NNN`, `N`. -/
inductive Instr where
  /-- `00E0` CLS (rule R135). -/
  | cls
  /-- `00EE` RET (rule R82). -/
  | ret
  /-- `1NNN` JP NNN (rule R83). -/
  | jp (nnn : Addr12)
  /-- `2NNN` CALL NNN (rule R84). -/
  | call (nnn : Addr12)
  /-- `3XNN` SE VX, NN (rule R85). -/
  | seImm (x : Nibble) (nn : Byte)
  /-- `4XNN` SNE VX, NN (rule R86). -/
  | sneImm (x : Nibble) (nn : Byte)
  /-- `5XY0` SE VX, VY (rule R87). -/
  | seReg (x y : Nibble)
  /-- `6XNN` LD VX, NN (rule R100). -/
  | ldImm (x : Nibble) (nn : Byte)
  /-- `7XNN` ADD VX, NN (rule R101). -/
  | addImm (x : Nibble) (nn : Byte)
  /-- `8XY0` LD VX, VY (rule R102). -/
  | ldReg (x y : Nibble)
  /-- `8XY1` OR VX, VY (rule R103). -/
  | orReg (x y : Nibble)
  /-- `8XY2` AND VX, VY (rule R104). -/
  | andReg (x y : Nibble)
  /-- `8XY3` XOR VX, VY (rule R105). -/
  | xorReg (x y : Nibble)
  /-- `8XY4` ADD VX, VY (rule R106). -/
  | addReg (x y : Nibble)
  /-- `8XY5` SUB VX, VY (rule R107). -/
  | subReg (x y : Nibble)
  /-- `8XY6` SHR VX, VY (rule R108). -/
  | shr (x y : Nibble)
  /-- `8XY7` SUBN VX, VY (rule R109). -/
  | subn (x y : Nibble)
  /-- `8XYE` SHL VX, VY (rule R110). -/
  | shl (x y : Nibble)
  /-- `9XY0` SNE VX, VY (rule R88). -/
  | sneReg (x y : Nibble)
  /-- `ANNN` LD I, NNN (rule R120). -/
  | ldIndex (nnn : Addr12)
  /-- `BNNN` JP V0, NNN (rule R89); `X` is the top nibble of `nnn` (rule R64). -/
  | jpOffset (nnn : Addr12)
  /-- `CXNN` RND VX, NN (rule R111). -/
  | rnd (x : Nibble) (nn : Byte)
  /-- `DXYN` DRW VX, VY, N (rule R136). -/
  | drw (x y n : Nibble)
  /-- `EX9E` SKP VX (rule R150). -/
  | skp (x : Nibble)
  /-- `EXA1` SKNP VX (rule R151). -/
  | sknp (x : Nibble)
  /-- `FX07` LD VX, DT (rule R153). -/
  | ldFromDt (x : Nibble)
  /-- `FX0A` LD VX, K (rule R152). -/
  | ldKey (x : Nibble)
  /-- `FX15` LD DT, VX (rule R154). -/
  | ldDt (x : Nibble)
  /-- `FX18` LD ST, VX (rule R155). -/
  | ldSt (x : Nibble)
  /-- `FX1E` ADD I, VX (rule R121). -/
  | addIndex (x : Nibble)
  /-- `FX29` LD F, VX (rule R122). -/
  | ldFont (x : Nibble)
  /-- `FX33` LD B, VX (rule R123). -/
  | ldBcd (x : Nibble)
  /-- `FX55` LD [I], VX (rule R124). -/
  | storeRegs (x : Nibble)
  /-- `FX65` LD VX, [I] (rule R125). -/
  | loadRegs (x : Nibble)
  deriving DecidableEq, Repr

/-- The six derived views of one instruction word, all taken at once and overlapping (rule R61). -/
structure Fields where
  op : Nibble
  x : Nibble
  y : Nibble
  n : Nibble
  nn : Byte
  nnn : Addr12
  deriving DecidableEq, Repr

end Sys2Proof
end

