-- ==== Sys2Proof/WellFormed.lean ====
section
/-! DEFINITION. The checks on plain data that come from outside a type. A term of `Instr` needs none: each operand's type holds exactly
the values its field can have, and all of them are legal (rules R61, R65), so every term of `Instr` is well formed and has an
encoding. What is left to check: that a record of the six fields is the view of ONE word (rule R61), that a range handed to the
bit-field extractor is valid (rule R62), and that a ROM fits (rule R192). -/

namespace Sys2Proof

/-- The overlapping views agree: `NN` is `Y` then `N`, and `NNN` is `X` then `NN` (rule R61: the fields are views of one word). -/
def Fields.wf (f : Fields) : Bool :=
  f.nn.toNat == 16 * f.y.val + f.n.val && f.nnn.toNat == 256 * f.x.val + f.nn.toNat

/-- The ranges the extractor accepts: not `start > end`, not `start ≥ W`, not `end > W` (rule R62). -/
def validRange (W start stop : Nat) : Bool :=
  decide (start ≤ stop) && decide (start < W) && decide (stop ≤ W)

/-- A ROM that `LoadROM` can place: at most 3584 bytes (rule R192). -/
def romFits (bytes : List Byte) : Bool :=
  decide (bytes.length ≤ Config.romMax)

end Sys2Proof
end

