-- ==== Sys2Proof/Decode.lean ====
section
/-! DEFINITION. Decoding: the bit-field extractor and composer (rules R62, R63), the six fields (rule R61), the two-level dispatch (rule R66),
total on any word and any bytes; then the encoder (rule R72) and the opcode map of rule R67 as data. -/

namespace Sys2Proof

/-- The bit-field extractor over the half-open range `[start, stop)`; `none` is the report `InvalidRange` (rule R62). -/
def extract {W : Nat} (w : BitVec W) (start stop : Nat) : Option Nat :=
  if validRange W start stop then some ((w.toNat >>> start) % 2 ^ (stop - start)) else none

/-- The composer: the first operand's bits at the high end (rule R63). Its one use is fetch, which makes fetch big-endian (rule R44). -/
def compose {m n : Nat} (a : BitVec m) (b : BitVec n) : BitVec (m + n) :=
  a ++ b

/-- A 4-bit field of a word, `w[lo+3:lo]` (rules R61, R62). -/
def nibbleAt (w : Word) (lo : Nat) : Nibble :=
  (w.extractLsb' lo 4).toFin

/-- The six views of an instruction word (rule R61). -/
def fieldsOf (w : Word) : Fields where
  op := nibbleAt w 12
  x := nibbleAt w 8
  y := nibbleAt w 4
  n := nibbleAt w 0
  nn := w.extractLsb' 0 8
  nnn := w.extractLsb' 0 12

/-- Why bytes do not decode. -/
inductive DecodeError where
  /-- The word matches no row of rule R67 (rule R68). The machine treats it as a no-op that advances `PC` (rule R176): it is not a stop. -/
  | unknownOpcode (w : Word)
  /-- Fewer than two bytes were given; every instruction is two bytes long (rule R60). -/
  | tooShort
  deriving DecidableEq, Repr

/-- Family 0: the whole of `NNN` is compared (rule R66). -/
def decode0 (w : Word) (f : Fields) : Except DecodeError Instr :=
  if f.nnn = 0x0E0#12 then .ok .cls
  else if f.nnn = 0x0EE#12 then .ok .ret
  else .error (.unknownOpcode w)

/-- Family 8: the secondary key is `N`; 8, 9, A, B, C, D and F are unknown (rules R66, R69). -/
def decode8 (w : Word) (f : Fields) : Except DecodeError Instr :=
  match f.n.val with
  | 0x0 => .ok (.ldReg f.x f.y)
  | 0x1 => .ok (.orReg f.x f.y)
  | 0x2 => .ok (.andReg f.x f.y)
  | 0x3 => .ok (.xorReg f.x f.y)
  | 0x4 => .ok (.addReg f.x f.y)
  | 0x5 => .ok (.subReg f.x f.y)
  | 0x6 => .ok (.shr f.x f.y)
  | 0x7 => .ok (.subn f.x f.y)
  | 0xE => .ok (.shl f.x f.y)
  | _ => .error (.unknownOpcode w)

/-- Family E: the secondary key is the low byte (rule R66). -/
def decodeE (w : Word) (f : Fields) : Except DecodeError Instr :=
  if f.nn = 0x9E#8 then .ok (.skp f.x)
  else if f.nn = 0xA1#8 then .ok (.sknp f.x)
  else .error (.unknownOpcode w)

/-- Family F: the secondary key is the low byte (rule R66). -/
def decodeF (w : Word) (f : Fields) : Except DecodeError Instr :=
  if f.nn = 0x07#8 then .ok (.ldFromDt f.x)
  else if f.nn = 0x0A#8 then .ok (.ldKey f.x)
  else if f.nn = 0x15#8 then .ok (.ldDt f.x)
  else if f.nn = 0x18#8 then .ok (.ldSt f.x)
  else if f.nn = 0x1E#8 then .ok (.addIndex f.x)
  else if f.nn = 0x29#8 then .ok (.ldFont f.x)
  else if f.nn = 0x33#8 then .ok (.ldBcd f.x)
  else if f.nn = 0x55#8 then .ok (.storeRegs f.x)
  else if f.nn = 0x65#8 then .ok (.loadRegs f.x)
  else .error (.unknownOpcode w)

/-- The two-level dispatch on the fields of `w` (rule R66). A nibble is below 16, so the last arm is never reached. -/
def decodeFields (w : Word) (f : Fields) : Except DecodeError Instr :=
  match f.op.val with
  | 0x0 => decode0 w f
  | 0x1 => .ok (.jp f.nnn)
  | 0x2 => .ok (.call f.nnn)
  | 0x3 => .ok (.seImm f.x f.nn)
  | 0x4 => .ok (.sneImm f.x f.nn)
  | 0x5 => if f.n = 0 then .ok (.seReg f.x f.y) else .error (.unknownOpcode w)
  | 0x6 => .ok (.ldImm f.x f.nn)
  | 0x7 => .ok (.addImm f.x f.nn)
  | 0x8 => decode8 w f
  | 0x9 => if f.n = 0 then .ok (.sneReg f.x f.y) else .error (.unknownOpcode w)
  | 0xA => .ok (.ldIndex f.nnn)
  | 0xB => .ok (.jpOffset f.nnn)
  | 0xC => .ok (.rnd f.x f.nn)
  | 0xD => .ok (.drw f.x f.y f.n)
  | 0xE => decodeE w f
  | 0xF => decodeF w f
  | _ => .error (.unknownOpcode w)

/-- Decoding of one instruction word, total (rules R66, R68). -/
def decodeWord (w : Word) : Except DecodeError Instr :=
  decodeFields w (fieldsOf w)

/-- Decoding of bytes: the first two bytes, high byte first, and the rest (rules R44, R60). -/
def decode : List Byte → Except DecodeError (Instr × List Byte)
  | hi :: lo :: rest =>
    match decodeWord (compose hi lo) with
    | .ok i => .ok (i, rest)
    | .error e => .error e
  | [] => .error .tooShort
  | [_] => .error .tooShort

/-! The encoder, written from rule R72. -/

/-- Formats XY and XYN: `OP·4096 + X·256 + Y·16 + N` (rule R72). -/
def wordXYN (op x y n : Nibble) : Word :=
  BitVec.ofNat 16 (op.val * 4096 + x.val * 256 + y.val * 16 + n.val)

/-- Formats XI and XS: `OP·4096 + X·256 + NN` (rule R72). -/
def wordXI (op x : Nibble) (nn : Byte) : Word :=
  BitVec.ofNat 16 (op.val * 4096 + x.val * 256 + nn.toNat)

/-- Formats A and E: `OP·4096 + NNN` (rules R64, R72). -/
def wordA (op : Nibble) (nnn : Addr12) : Word :=
  BitVec.ofNat 16 (op.val * 4096 + nnn.toNat)

/-- The instruction word of an instruction (rules R64, R67, R72). -/
def encode : Instr → Word
  | .cls => wordA 0x0 0x0E0
  | .ret => wordA 0x0 0x0EE
  | .jp nnn => wordA 0x1 nnn
  | .call nnn => wordA 0x2 nnn
  | .seImm x nn => wordXI 0x3 x nn
  | .sneImm x nn => wordXI 0x4 x nn
  | .seReg x y => wordXYN 0x5 x y 0x0
  | .ldImm x nn => wordXI 0x6 x nn
  | .addImm x nn => wordXI 0x7 x nn
  | .ldReg x y => wordXYN 0x8 x y 0x0
  | .orReg x y => wordXYN 0x8 x y 0x1
  | .andReg x y => wordXYN 0x8 x y 0x2
  | .xorReg x y => wordXYN 0x8 x y 0x3
  | .addReg x y => wordXYN 0x8 x y 0x4
  | .subReg x y => wordXYN 0x8 x y 0x5
  | .shr x y => wordXYN 0x8 x y 0x6
  | .subn x y => wordXYN 0x8 x y 0x7
  | .shl x y => wordXYN 0x8 x y 0xE
  | .sneReg x y => wordXYN 0x9 x y 0x0
  | .ldIndex nnn => wordA 0xA nnn
  | .jpOffset nnn => wordA 0xB nnn
  | .rnd x nn => wordXI 0xC x nn
  | .drw x y n => wordXYN 0xD x y n
  | .skp x => wordXI 0xE x 0x9E
  | .sknp x => wordXI 0xE x 0xA1
  | .ldFromDt x => wordXI 0xF x 0x07
  | .ldKey x => wordXI 0xF x 0x0A
  | .ldDt x => wordXI 0xF x 0x15
  | .ldSt x => wordXI 0xF x 0x18
  | .addIndex x => wordXI 0xF x 0x1E
  | .ldFont x => wordXI 0xF x 0x29
  | .ldBcd x => wordXI 0xF x 0x33
  | .storeRegs x => wordXI 0xF x 0x55
  | .loadRegs x => wordXI 0xF x 0x65

/-- The high byte of a word, `w div 256` (rule R72). -/
def highByte (w : Word) : Byte := w.extractLsb' 8 8

/-- The low byte of a word, `w mod 256` (rule R72). -/
def lowByte (w : Word) : Byte := w.extractLsb' 0 8

/-- A word as it lies in memory: high byte first (rules R44, R71). -/
def wordBytes (w : Word) : List Byte := [highByte w, lowByte w]

/-- The two bytes of an instruction (rules R71, R72). -/
def encodeBytes (i : Instr) : List Byte := wordBytes (encode i)

/-! The opcode map of rule R67 as data: a word `w` is the instruction iff `w AND mask = match`. -/

/-- One row of the opcode map (rule R67). -/
structure Row where
  mnemonic : String
  mask : Word
  pattern : Word
  deriving DecidableEq, Repr

/-- `w AND mask = match` (rule R67). -/
def Row.accepts (r : Row) (w : Word) : Bool := w &&& r.mask == r.pattern

/-- The row of each instruction (rule R67, columns mask and match; mnemonics as spec/opcode_table.json spells them). -/
def rowOf : Instr → Row
  | .cls => ⟨"CLS", 0xFFFF, 0x00E0⟩
  | .ret => ⟨"RET", 0xFFFF, 0x00EE⟩
  | .jp _ => ⟨"JP_NNN", 0xF000, 0x1000⟩
  | .call _ => ⟨"CALL_NNN", 0xF000, 0x2000⟩
  | .seImm _ _ => ⟨"SE_VX__NN", 0xF000, 0x3000⟩
  | .sneImm _ _ => ⟨"SNE_VX__NN", 0xF000, 0x4000⟩
  | .seReg _ _ => ⟨"SE_VX__VY", 0xF00F, 0x5000⟩
  | .ldImm _ _ => ⟨"LD_VX__NN", 0xF000, 0x6000⟩
  | .addImm _ _ => ⟨"ADD_VX__NN", 0xF000, 0x7000⟩
  | .ldReg _ _ => ⟨"LD_VX__VY", 0xF00F, 0x8000⟩
  | .orReg _ _ => ⟨"OR_VX__VY", 0xF00F, 0x8001⟩
  | .andReg _ _ => ⟨"AND_VX__VY", 0xF00F, 0x8002⟩
  | .xorReg _ _ => ⟨"XOR_VX__VY", 0xF00F, 0x8003⟩
  | .addReg _ _ => ⟨"ADD_VX__VY", 0xF00F, 0x8004⟩
  | .subReg _ _ => ⟨"SUB_VX__VY", 0xF00F, 0x8005⟩
  | .shr _ _ => ⟨"SHR_VX__VY", 0xF00F, 0x8006⟩
  | .subn _ _ => ⟨"SUBN_VX__VY", 0xF00F, 0x8007⟩
  | .shl _ _ => ⟨"SHL_VX__VY", 0xF00F, 0x800E⟩
  | .sneReg _ _ => ⟨"SNE_VX__VY", 0xF00F, 0x9000⟩
  | .ldIndex _ => ⟨"LD_I__NNN", 0xF000, 0xA000⟩
  | .jpOffset _ => ⟨"JP_V0__NNN", 0xF000, 0xB000⟩
  | .rnd _ _ => ⟨"RND_VX__NN", 0xF000, 0xC000⟩
  | .drw _ _ _ => ⟨"DRW_VX__VY__N", 0xF000, 0xD000⟩
  | .skp _ => ⟨"SKP_VX", 0xF0FF, 0xE09E⟩
  | .sknp _ => ⟨"SKNP_VX", 0xF0FF, 0xE0A1⟩
  | .ldFromDt _ => ⟨"LD_VX__DT", 0xF0FF, 0xF007⟩
  | .ldKey _ => ⟨"LD_VX__K", 0xF0FF, 0xF00A⟩
  | .ldDt _ => ⟨"LD_DT__VX", 0xF0FF, 0xF015⟩
  | .ldSt _ => ⟨"LD_ST__VX", 0xF0FF, 0xF018⟩
  | .addIndex _ => ⟨"ADD_I__VX", 0xF0FF, 0xF01E⟩
  | .ldFont _ => ⟨"LD_F__VX", 0xF0FF, 0xF029⟩
  | .ldBcd _ => ⟨"LD_B__VX", 0xF0FF, 0xF033⟩
  | .storeRegs _ => ⟨"LD__I___VX", 0xF0FF, 0xF055⟩
  | .loadRegs _ => ⟨"LD_VX___I", 0xF0FF, 0xF065⟩

/-- One instruction per row of rule R67, in the order of the table. -/
def tableInstrs : List Instr :=
  [.cls, .ret, .jp 0, .call 0, .seImm 0 0, .sneImm 0 0, .seReg 0 0, .ldImm 0 0, .addImm 0 0] ++
  [.ldReg 0 0, .orReg 0 0, .andReg 0 0, .xorReg 0 0, .addReg 0 0, .subReg 0 0, .shr 0 0, .subn 0 0, .shl 0 0] ++
  [.sneReg 0 0, .ldIndex 0, .jpOffset 0, .rnd 0 0, .drw 0 0 0, .skp 0, .sknp 0, .ldFromDt 0, .ldKey 0] ++
  [.ldDt 0, .ldSt 0, .addIndex 0, .ldFont 0, .ldBcd 0, .storeRegs 0, .loadRegs 0]

/-- The 34 rows of rule R67. -/
def opcodeTable : List Row := tableInstrs.map rowOf

/-- The word of a table number: `nbits` bits of `w` (at most the sixteen an instruction has), every bit above them 0. -/
def tableWord (nbits w : Nat) : Word := BitVec.ofNat 16 (w % 2 ^ nbits)

/-- What the decoder reads from the bytes of a table word as memory holds them: high byte first (rule R44). -/
def decodeTableWord (nbits w : Nat) : Option Instr :=
  match decode (wordBytes (tableWord nbits w)) with
  | .ok (i, _) => some i
  | .error _ => none

end Sys2Proof
end

