-- ==== Sys2Proof/Machine/Params.lean ====
section
/-! DEFINITION. The parameters of rule R5 whose value is a decision of the spec and not a statement of its source, each in one
definition: stack depth (D2), memory fill (D3), font bytes (D17), default quirks (D13). -/

namespace Sys2Proof.Machine

/-- `STACK_DEPTH` = 16 entries (rules R5, R15; decision D2). Assumption log entry 5. -/
def stackDepth : Nat := 16

/-- `MEM_FILL`: what every byte outside the font holds after reset (rules R5, R28; decision D3). Assumption log entry 4. -/
def memFill : Byte := 0x00

/-- `FONT`: the 80 font bytes, glyphs 0..F (rule R42; decision D17). Assumption log entry 6. -/
def font : List Byte :=
  [0xF0, 0x90, 0x90, 0x90, 0xF0] ++ [0x20, 0x60, 0x20, 0x20, 0x70] ++
  [0xF0, 0x10, 0xF0, 0x80, 0xF0] ++ [0xF0, 0x10, 0xF0, 0x10, 0xF0] ++
  [0x90, 0x90, 0xF0, 0x10, 0x10] ++ [0xF0, 0x80, 0xF0, 0x10, 0xF0] ++
  [0xF0, 0x80, 0xF0, 0x90, 0xF0] ++ [0xF0, 0x10, 0x20, 0x40, 0x40] ++
  [0xF0, 0x90, 0xF0, 0x90, 0xF0] ++ [0xF0, 0x90, 0xF0, 0x10, 0xF0] ++
  [0xF0, 0x90, 0xF0, 0x90, 0x90] ++ [0xE0, 0x90, 0xE0, 0x90, 0xE0] ++
  [0xF0, 0x80, 0x80, 0x80, 0xF0] ++ [0xE0, 0x90, 0x90, 0x90, 0xE0] ++
  [0xF0, 0x80, 0xF0, 0x80, 0xF0] ++ [0xF0, 0x80, 0xF0, 0x80, 0x80]

/-- The quirks of `State.reset`: the defaults the spec recommends for the source's "default to the non-VIP (modern) behavior"
(rule R22, decision D13). No statement rests on them: `q` is a field of State and `State.resetWith` takes any record. Assumption log
entry 7. -/
def defaultQuirks : Quirks where
  shiftUsesVy := false
  jumpUsesVx := true
  indexAutoincrement := false
  indexOverflowFlag := false

end Sys2Proof.Machine
end

