-- ==== Sys2Proof/Machine/State.lean ====
section
/-! DEFINITION. The whole state of CORE as plain data (rules R10 to R25), the reasons a step can stop, and the state after reset
(rule R28). -/

namespace Sys2Proof.Machine

/-- Main memory as listed cells: addresses rising, none equal to what an unlisted address reads as (`Memory.wf`). -/
abbrev Memory := List Host.Cell

/-- The display surface `DISP[y][x]`: 32 rows of 64 one-bit cells, true = on (rule R19). -/
abbrev Display := Vector (Vector Bool 64) 32

/-- The causes of a fatal error (rule R166). `ERR` latches one of them. -/
inductive Cause where
  /-- Code 1: 00EE with an empty stack (rule R167). -/
  | stackUnderflow
  /-- Code 2: a data access beyond 0xFFF by DXYN, FX33, FX55, FX65 (rule R168). -/
  | memoryOverrun
  /-- Code 3: `LoadROM` of more than 3584 bytes (rule R169). -/
  | romTooLarge
  /-- Code 4: a fetch that needs a byte beyond 0xFFF (rule R170). -/
  | fetchOverrun
  /-- Code 5: 2NNN with a full stack (rule R171). -/
  | stackOverflow
  /-- Code 6: EX9E or EXA1 with `V[X]` above 15 (rule R172). -/
  | keyIndexRange
  deriving DecidableEq, Repr

/-- The events by which the state changes (rule R26). `step` carries no random byte: the byte of a CXNN comes from `State.rndIn`
or `Config.randomByte`. -/
inductive Event where
  /-- `Reset(q)` (rule R190). -/
  | reset (q : Quirks)
  /-- `LoadROM(bytes)` (rule R192). -/
  | loadRom (bytes : List Byte)
  /-- `KeypadUpdate(k)`: bit `i` of `k` is 1 iff hexkey `i` is down (rule R181). -/
  | keypadUpdate (k : Word)
  /-- `Tick` (rule R179). -/
  | tick
  /-- `Step`: one instruction cycle (rule R80). -/
  | step
  deriving DecidableEq, Repr

/-- Everything the spec gives the machine, and after it four fields of the model's own (the host's side of the interface). -/
@[ext]
structure State where
  /-- `V[0]`..`V[15]` (rules R10, R11). -/
  v : Vector Byte 16
  /-- The index register `I` (rule R12). -/
  index : Word
  /-- `PC` (rules R13, R14). Between cycles, the address of the next instruction. -/
  pc : Word
  /-- The entries of the call stack in use, TOP FIRST; `SP` is their number (rules R15, R16). -/
  stack : List Word
  /-- `DT` (rule R17). -/
  dt : Byte
  /-- `ST` (rule R17). -/
  st : Byte
  /-- `MEM` (rule R18). -/
  mem : Memory
  /-- `DISP` (rule R19). -/
  disp : Display
  /-- `KEYS`: bit `k` is key `k` (rule R20). -/
  keys : Word
  /-- `KPREV`: the value of `KEYS` at the last FX0A (rule R21). -/
  kprev : Word
  /-- The quirks `q` of the run (rule R22). -/
  quirks : Quirks
  /-- `ERR`: none is 0, no error (rule R23). -/
  err : Option Cause
  /-- The model's own: no event has happened since `Reset`, so `LoadROM` is defined (rule R192, decision D21). -/
  romOpen : Bool
  /-- The model's own: random bytes the host has supplied, oldest first; a CXNN takes the first (rules R26, R111). -/
  rndIn : List Byte
  /-- The model's own: how many free random bytes have been drawn from `Config.randomByte`. -/
  draws : Nat
  /-- The model's own: events the host has issued that have not happened yet, oldest first. When there are none, the host grants a
  cycle at every step. -/
  pending : List Event
  deriving DecidableEq, Repr

/-- The reasons for a stop that is not a state: NONE. Each fatal error of the spec has a described entry (rule R174: every element
keeps its value and `ERR` latches the cause) and a described aftermath (rule R175), so it is a next state with `ERR` set, never an
outcome of this type; what a safe run must avoid is said in Safety.lean. Nobody raises a Fault. Assumption log entry 2. -/
inductive Fault where
  deriving DecidableEq, Repr

/-- The reasons the model declines. -/
inductive Refusal where
  /-- Raised by `exec` for an instruction that has no meaning yet. Safe. No arm of `exec` answers it. -/
  | notModelled (mnemonic : String)
  /-- Raised by `loadRom` when an event other than `Reset` has happened since the last `Reset`: the spec defines `LoadROM` only in the
  state just after `Reset` and asks a model to refuse it elsewhere (rule R192, U14, decision D21). Safe. No instruction raises it. -/
  | loadRomNotAfterReset
  deriving DecidableEq, Repr

/-- What a step answers. -/
abbrev Result := Host.Outcome State Fault Refusal

/-- The state after `Reset(q)` (rules R28, R190). Memory lists nothing: an unlisted address reads as its reset byte. -/
def State.resetWith (q : Quirks) : State where
  v := Vector.replicate 16 0x00
  index := 0x0000
  pc := 0x0200
  stack := []
  dt := 0x00
  st := 0x00
  mem := []
  disp := Vector.replicate 32 (Vector.replicate 64 false)
  keys := 0x0000
  kprev := 0x0000
  quirks := q
  err := none
  romOpen := true
  rndIn := []
  draws := 0
  pending := []

/-- The machine right after reset, with the default quirks. -/
def State.reset : State := State.resetWith defaultQuirks

end Sys2Proof.Machine
end

