-- ==== Sys2Proof/Machine/Memory.lean ====
section
/-! DEFINITION. Main memory: 4096 bytes (rule R40) held as the list of the bytes that differ from their reset value, in one canonical
form. -/

namespace Sys2Proof.Machine

/-- What an unlisted address reads as: its byte after reset, `FONT` at 0x050..0x09F and `MEM_FILL` elsewhere (rules R28, R41, R42). -/
def Memory.unlisted (a : Nat) : Byte :=
  if Config.fontBase ≤ a ∧ a < Config.fontBase + Config.fontSize then font.getD (a - Config.fontBase) memFill else memFill

/-- `MEM[a]`. -/
def Memory.read : Memory → Nat → Byte
  | [], a => Memory.unlisted a
  | (b, v) :: m, a => if b = a then v else Memory.read m a

/-- `MEM[a] <- v`, keeping the canonical form. -/
def Memory.write : Memory → Nat → Byte → Memory
  | [], a, v => if v = Memory.unlisted a then [] else [(a, v)]
  | (b, u) :: m, a, v =>
    if a < b then (if v = Memory.unlisted a then (b, u) :: m else (a, v) :: (b, u) :: m)
    else if a = b then (if v = Memory.unlisted a then m else (a, v) :: m)
    else (b, u) :: Memory.write m a v

/-- The bytes `bs` written at `a`, `a+1`, ..., lowest address first (rules R44, R50). -/
def Memory.writeBytes : Memory → Nat → List Byte → Memory
  | m, _, [] => m
  | m, a, b :: bs => Memory.writeBytes (Memory.write m a b) (a + 1) bs

/-- The `count` bytes at `a`, `a+1`, ..., lowest address first. -/
def Memory.readBytes (m : Memory) (a count : Nat) : List Byte :=
  (List.range count).map fun k => Memory.read m (a + k)

/-- The listed addresses rise strictly, and the first lies above `lo` where `lo` is given. -/
def Memory.rising : Option Nat → Memory → Bool
  | _, [] => true
  | none, (a, _) :: m => Memory.rising (some a) m
  | some lo, (a, _) :: m => decide (lo < a) && Memory.rising (some a) m

/-- Each listed cell exists (rule R40) and differs from what its address reads as when unlisted. -/
def Memory.cellOk (c : Host.Cell) : Bool :=
  decide (c.1 < Config.memSize) && decide (c.2 ≠ Memory.unlisted c.1)

/-- The canonical form, so that equal memories are equal data. -/
def Memory.wf (m : Memory) : Bool :=
  Memory.rising none m && m.all Memory.cellOk

end Sys2Proof.Machine
end

