-- ==== Sys2Proof/Machine/Ops.lean ====
section
/-! DEFINITION. The named operations over registers, memory and stack that every meaning is written with, and the one way a fatal
error is taken (rule R174). -/

namespace Sys2Proof.Machine

/-- The index of VF (rule R11). -/
def vf : Nibble := 15

/-- `V[x]` (rule R10). No register is hardwired. -/
def State.reg (s : State) (x : Nibble) : Byte := s.v[x.val]

/-- `V[x] <- b` (rule R10). -/
def State.setReg (s : State) (x : Nibble) (b : Byte) : State :=
  { s with v := Vector.set s.v x.val b x.isLt }

/-- All of V0..VF at once (FX65). -/
def State.setRegs (s : State) (v : Vector Byte 16) : State := { s with v := v }

/-- `I <- w` (rule R12). -/
def State.setIndex (s : State) (w : Word) : State := { s with index := w }

/-- `PC <- w` (rule R13). -/
def State.setPc (s : State) (w : Word) : State := { s with pc := w }

/-- The stack entries in use, top first (rule R15). -/
def State.setStack (s : State) (l : List Word) : State := { s with stack := l }

/-- `DT <- b` (rule R17). -/
def State.setDt (s : State) (b : Byte) : State := { s with dt := b }

/-- `ST <- b` (rule R17). -/
def State.setSt (s : State) (b : Byte) : State := { s with st := b }

/-- All of `MEM` (rule R18). -/
def State.setMem (s : State) (m : Memory) : State := { s with mem := m }

/-- All of `DISP` (rule R19). -/
def State.setDisp (s : State) (d : Display) : State := { s with disp := d }

/-- `KEYS <- k` (rule R20; only `KeypadUpdate`). -/
def State.setKeys (s : State) (k : Word) : State := { s with keys := k }

/-- `KPREV <- k` (rule R21; only FX0A). -/
def State.setKprev (s : State) (k : Word) : State := { s with kprev := k }

/-- `ERR` (rule R23). -/
def State.setErr (s : State) (c : Option Cause) : State := { s with err := c }

/-- Whether `LoadROM` is still defined (the model's own). -/
def State.setRomOpen (s : State) (b : Bool) : State := { s with romOpen := b }

/-- The random bytes supplied and the number drawn (the model's own). -/
def State.setRandom (s : State) (l : List Byte) (n : Nat) : State := { s with rndIn := l, draws := n }

/-- The events still to happen (the model's own). -/
def State.setPending (s : State) (l : List Event) : State := { s with pending := l }

/-- "Advance `PC` by 2 before executing", modulo 65536 (rules R14, R80). -/
def State.advance (s : State) : State := s.setPc (s.pc + 2)

/-- `Skip()` (rule R81). -/
def State.skip (s : State) : State := s.setPc (s.pc + 2)

/-- `if c then Skip()` (rules R85 to R88, R150, R151). -/
def State.skipIf (s : State) (c : Bool) : State := if c then s.skip else s

/-- `SP`, the number of stack entries in use (rule R15). -/
def State.sp (s : State) : Nat := s.stack.length

/-! Fatal errors. -/

/-- What `raise` is given: the error with its recorded info (rule R166). -/
inductive Error where
  | stackUnderflow
  /-- The offending address. -/
  | memoryOverrun (addr : Nat)
  /-- The length. -/
  | romTooLarge (length : Nat)
  /-- `PC`. -/
  | fetchOverrun (pc : Nat)
  | stackOverflow
  /-- `V[X]`. -/
  | keyIndexRange (k : Byte)
  deriving DecidableEq, Repr

/-- The cause `ERR` latches: only the code, never the info (rule R166). -/
def causeOf : Error → Cause
  | .stackUnderflow => .stackUnderflow
  | .memoryOverrun _ => .memoryOverrun
  | .romTooLarge _ => .romTooLarge
  | .fetchOverrun _ => .fetchOverrun
  | .stackOverflow => .stackOverflow
  | .keyIndexRange _ => .keyIndexRange

/-- The cause code (rule R166). -/
def codeOf : Cause → Nat
  | .stackUnderflow => 1
  | .memoryOverrun => 2
  | .romTooLarge => 3
  | .fetchOverrun => 4
  | .stackOverflow => 5
  | .keyIndexRange => 6

/-- `ERR` as a number: 0 is no error (rules R23, R166). -/
def errCode : Option Cause → Nat
  | none => 0
  | some c => codeOf c

/-- TAKING A FATAL ERROR, the one shared operation (rule R174): `s` is the state before the event began, every element of it keeps its
value (so `PC` is the address of the faulting instruction) and `ERR` latches the cause. There is no vector, no handler, no saved
state and no return: only `Reset` leaves it (rule R175, `resetEvent`). -/
def raise (e : Error) (s : State) : Result := .next (s.setErr (some (causeOf e)))

/-! The call stack (rule R16). -/

/-- `Push(v)` (rule R16). -/
def push (w : Word) (s : State) : Except Error State :=
  if stackDepth ≤ s.sp then .error .stackOverflow else .ok (s.setStack (w :: s.stack))

/-- `Pop()`: the value and the state after (rule R16). -/
def pop (s : State) : Except Error (Word × State) :=
  match s.stack with
  | [] => .error .stackUnderflow
  | w :: rest => .ok (w, s.setStack rest)

/-- `Peek()`: the top entry, no state change (rules R16, R27). -/
def peek (s : State) : Option Word := s.stack.head?

/-! Memory access (rules R46, R47). -/

/-- `MEM[a]` of a state. -/
def State.byte (s : State) (a : Nat) : Byte := Memory.read s.mem a

/-- `MemRead(addr, 1)` (rule R46). -/
def memRead (a : Nat) (s : State) : Except Error Byte :=
  if Config.memSize ≤ a then .error (.memoryOverrun a) else .ok (s.byte a)

/-- `MemWrite(addr, 1, v)` (rule R46). -/
def memWrite (a : Nat) (b : Byte) (s : State) : Except Error State :=
  if Config.memSize ≤ a then .error (.memoryOverrun a) else .ok (s.setMem (Memory.write s.mem a b))

/-- The check of a whole range of `count` bytes from `first`, made before its first access (rules R46, R168; decision D7). Addresses are
natural numbers, so nothing wraps. An empty range cannot fail (decision D12). -/
def rangeError (first count : Nat) : Option Error :=
  if count = 0 ∨ first + count ≤ Config.memSize then none else some (.memoryOverrun (first + count - 1))

/-- `Fetch(addr)`: big-endian, fatal beyond 0xFFF, no wrap (rules R44, R47). -/
def fetch (a : Nat) (s : State) : Except Error Word :=
  if Config.memSize ≤ a + 1 then .error (.fetchOverrun a) else .ok (compose (s.byte a) (s.byte (a + 1)))

/-! The random input (rules R26, R111). -/

/-- The random byte of this cycle: the first one the host supplied, or a free value. -/
def randomByte (s : State) : Byte :=
  match s.rndIn with
  | r :: _ => r
  | [] => Config.randomByte s.draws

/-- The state after one random byte has been consumed. -/
def consumeRandom (s : State) : State :=
  match s.rndIn with
  | _ :: rest => s.setRandom rest s.draws
  | [] => s.setRandom [] (s.draws + 1)

end Sys2Proof.Machine
end

