-- ==== Sys2Proof/Machine/Flags.lean ====
section
/-! DEFINITION. The flag values and the write order of the instructions that set VF (rules R11, R113). -/

namespace Sys2Proof.Machine

/-- A flag as VF holds it: exactly 0 or 1 (rule R11). -/
def flagByte (c : Bool) : Byte := if c then 0x01 else 0x00

/-- Carry of 8XY4: the true sum exceeds 255 (rule R106). -/
def addCarry (a b : Byte) : Bool := decide (255 < a.toNat + b.toNat)

/-- No borrow of `a − b`: the minuend is not below the subtrahend (rules R107, R109). -/
def noBorrow (a b : Byte) : Bool := decide (b.toNat ≤ a.toNat)

/-- The bit 8XY6 shifts out (rule R108). -/
def lowBit (a : Byte) : Bool := a.getLsbD 0

/-- The bit 8XYE shifts out (rule R110). -/
def highBit (a : Byte) : Bool := a.getLsbD 7

/-- Overflow of FX1E: the sum exceeds 0xFFFF, the register's width, not the memory's size (rule R121; decision D11). -/
def indexOverflow (i : Word) (b : Byte) : Bool := decide (0xFFFF < i.toNat + b.toNat)

/-- `VF <- flag`. -/
def State.setFlag (s : State) (c : Bool) : State := s.setReg vf (flagByte c)

/-- The result, then the flag: with `X = 15` the flag is what VF ends as (rule R11; decision D4). Assumption log entry 8. -/
def State.setResultAndFlag (s : State) (x : Nibble) (r : Byte) (c : Bool) : State :=
  (s.setReg x r).setFlag c

end Sys2Proof.Machine
end

