-- ==== Sys2Proof/Machine/Operands.lean ====
section
/-! DEFINITION. The operand forms: what each instruction takes from the state besides a plain `V[X]`, `V[Y]` or immediate (rules R22, R65). -/

namespace Sys2Proof.Machine

/-- The value 8XY6 and 8XYE shift: `V[Y]` under the quirk `shift_uses_vy`, else `V[X]` (rules R22, R108, R110). -/
def shiftOperand (x y : Nibble) (s : State) : Byte :=
  if s.quirks.shiftUsesVy then s.reg y else s.reg x

/-- `X` of BNNN: the top nibble of `NNN` (rules R64, R89). -/
def topNibble (nnn : Addr12) : Nibble := (nnn.extractLsb' 8 4).toFin

/-- The register BNNN adds: `V[X]` under the quirk `jump_uses_vx`, else `V[0]` (rules R22, R89). -/
def jumpOperand (nnn : Addr12) (s : State) : Byte :=
  if s.quirks.jumpUsesVx then s.reg (topNibble nnn) else s.reg 0

/-- The hexkey a register names, if it names one: 0..15 (rule R150; decision D10: a larger value is an error, neither masked nor "not pressed").
Assumption log entry 11. -/
def hexkey (b : Byte) : Option Nat :=
  if 15 < b.toNat then none else some b.toNat

/-- `KeyDown(k)` (rule R150). -/
def keyDown (k : Nat) (s : State) : Bool := s.keys.getLsbD k

/-- `new` of FX0A: keys down now that were not down at the last check (rule R152; decision D9). Assumption log entry 10. -/
def newKeys (s : State) : Word := s.keys &&& ~~~s.kprev

/-- The smallest index of a 1 bit, if there is one (rule R152). -/
def lowestKey (w : Word) : Option Nat := (List.range 16).find? fun k => w.getLsbD k

/-- The glyph address of FX29: `0x050 + 5 · (b AND 0x0F)` (rule R122). -/
def glyphAddress (b : Byte) : Word :=
  BitVec.ofNat 16 (Config.fontBase + 5 * (b &&& 0x0F).toNat)

/-- The three decimal digits of FX33, hundreds first (rule R123). -/
def bcdDigits (b : Byte) : List Byte :=
  [BitVec.ofNat 8 (b.toNat / 100), BitVec.ofNat 8 (b.toNat / 10 % 10), BitVec.ofNat 8 (b.toNat % 10)]

/-- V0..VX, the bytes FX55 stores (rule R124). -/
def regsUpTo (x : Nibble) (s : State) : List Byte :=
  s.v.toList.take (x.val + 1)

/-- V0..VF after FX65: `V[k]` for `k ≤ X` is the byte at `I + k`, the others are unchanged (rule R125). -/
def regsFromMem (x : Nibble) (s : State) : Vector Byte 16 :=
  Vector.ofFn fun k => if k.val ≤ x.val then s.byte (s.index.toNat + k.val) else s.reg k

/-- `I` after FX55 and FX65: `I + X + 1` under the quirk `index_autoincrement`, else unchanged (rules R22, R124, R125). -/
def indexAfterBlock (x : Nibble) (s : State) : Word :=
  if s.quirks.indexAutoincrement then s.index + BitVec.ofNat 16 (x.val + 1) else s.index

/-- The starting column of DXYN: `V[X] mod 64` (rule R136). -/
def originX (x : Nibble) (s : State) : Nat := (s.reg x).toNat % Config.dispW

/-- The starting row of DXYN: `V[Y] mod 32` (rule R136). -/
def originY (y : Nibble) (s : State) : Nat := (s.reg y).toNat % Config.dispH

/-- The `N` sprite bytes at `I` (rule R136). -/
def spriteRows (n : Nibble) (s : State) : List Byte :=
  Memory.readBytes s.mem s.index.toNat n.val

end Sys2Proof.Machine
end

