-- ==== Sys2Proof/Machine/Alu.lean ====
section
/-! DEFINITION. Register load, arithmetic and logic (rules R100 to R113). `s` is the state at the instruction; each meaning advances `PC` by
2 and reads all its operands before it writes. None of them can raise an error. -/

namespace Sys2Proof.Machine

/-- `6XNN`: `V[X] <- NN` (rule R100). -/
def execLdImm (x : Nibble) (nn : Byte) (s : State) : Result :=
  .next (s.advance.setReg x nn)

/-- `7XNN`: `V[X] <- (V[X] + NN) mod 256`, no flag (rule R101). -/
def execAddImm (x : Nibble) (nn : Byte) (s : State) : Result :=
  .next (s.advance.setReg x (s.reg x + nn))

/-- `8XY0`: `V[X] <- V[Y]` (rule R102). -/
def execLdReg (x y : Nibble) (s : State) : Result :=
  .next (s.advance.setReg x (s.reg y))

/-- `8XY1`: OR, no flag (rule R103). -/
def execOrReg (x y : Nibble) (s : State) : Result :=
  .next (s.advance.setReg x (s.reg x ||| s.reg y))

/-- `8XY2`: AND, no flag (rule R104). -/
def execAndReg (x y : Nibble) (s : State) : Result :=
  .next (s.advance.setReg x (s.reg x &&& s.reg y))

/-- `8XY3`: XOR, no flag (rule R105). -/
def execXorReg (x y : Nibble) (s : State) : Result :=
  .next (s.advance.setReg x (s.reg x ^^^ s.reg y))

/-- `8XY4`: add modulo 256, VF = carry (rule R106). -/
def execAddReg (x y : Nibble) (s : State) : Result :=
  .next (s.advance.setResultAndFlag x (s.reg x + s.reg y) (addCarry (s.reg x) (s.reg y)))

/-- `8XY5`: `V[X] − V[Y]` modulo 256, VF = no borrow (rule R107). -/
def execSubReg (x y : Nibble) (s : State) : Result :=
  .next (s.advance.setResultAndFlag x (s.reg x - s.reg y) (noBorrow (s.reg x) (s.reg y)))

/-- `8XY6`: logical shift right by one, VF = the bit shifted out (rule R108). -/
def execShr (x y : Nibble) (s : State) : Result :=
  .next (s.advance.setResultAndFlag x (shiftOperand x y s >>> 1) (lowBit (shiftOperand x y s)))

/-- `8XY7`: `V[Y] − V[X]` modulo 256, VF = no borrow (rule R109). -/
def execSubn (x y : Nibble) (s : State) : Result :=
  .next (s.advance.setResultAndFlag x (s.reg y - s.reg x) (noBorrow (s.reg y) (s.reg x)))

/-- `8XYE`: shift left by one modulo 256, VF = the bit shifted out (rule R110). -/
def execShl (x y : Nibble) (s : State) : Result :=
  .next (s.advance.setResultAndFlag x (shiftOperand x y s <<< 1) (highBit (shiftOperand x y s)))

/-- CXNN for a given random byte: `V[X] <- rnd AND NN` (rule R111). -/
def rndWith (rnd : Byte) (x : Nibble) (nn : Byte) (s : State) : State :=
  s.advance.setReg x (rnd &&& nn)

/-- `CXNN`: exactly one random byte is consumed (rule R111; decision D14). -/
def execRnd (x : Nibble) (nn : Byte) (s : State) : Result :=
  .next (rndWith (randomByte s) x nn (consumeRandom s))

end Sys2Proof.Machine
end

