-- ==== Sys2Proof/Machine/Flow.lean ====
section
/-! DEFINITION. Control transfer (rules R81 to R91). `s` is the state at the instruction, `s.pc` is `pc0` of rule R80; an error is taken on `s`
itself, so it changes nothing but `ERR` (rule R174). No target is checked when it is written to `PC` (rule R90). -/

namespace Sys2Proof.Machine

/-- `00EE`: pop the stack into `PC`; `StackUnderflow` when it is empty (rule R82). -/
def execRet (s : State) : Result :=
  match pop s with
  | .error e => raise e s
  | .ok (w, s') => .next (s'.setPc w)

/-- `1NNN`: `PC <- NNN` (rule R83). -/
def execJp (nnn : Addr12) (s : State) : Result :=
  .next (s.advance.setPc (zext16 nnn))

/-- `2NNN`: push the advanced `PC`, then jump; `StackOverflow` when the stack is full (rule R84). -/
def execCall (nnn : Addr12) (s : State) : Result :=
  match push s.advance.pc s.advance with
  | .error e => raise e s
  | .ok s' => .next (s'.setPc (zext16 nnn))

/-- `3XNN`: skip if `V[X] = NN` (rule R85). -/
def execSeImm (x : Nibble) (nn : Byte) (s : State) : Result :=
  .next (s.advance.skipIf (s.reg x == nn))

/-- `4XNN`: skip if `V[X] ≠ NN` (rule R86). -/
def execSneImm (x : Nibble) (nn : Byte) (s : State) : Result :=
  .next (s.advance.skipIf (s.reg x != nn))

/-- `5XY0`: skip if `V[X] = V[Y]` (rule R87). -/
def execSeReg (x y : Nibble) (s : State) : Result :=
  .next (s.advance.skipIf (s.reg x == s.reg y))

/-- `9XY0`: skip if `V[X] ≠ V[Y]` (rule R88). -/
def execSneReg (x y : Nibble) (s : State) : Result :=
  .next (s.advance.skipIf (s.reg x != s.reg y))

/-- `BNNN`: `PC <- NNN + V[0]`, or `NNN + V[X]` under the quirk, not reduced to 12 bits (rule R89). -/
def execJpOffset (nnn : Addr12) (s : State) : Result :=
  .next (s.advance.setPc (zext16 nnn + (jumpOperand nnn s).setWidth 16))

end Sys2Proof.Machine
end

