-- ==== Sys2Proof/Machine/IndexMemory.lean ====
section
/-! DEFINITION. The index register and memory instructions (rules R120 to R126). Effective addresses are natural numbers and the whole range is
checked before the first access; an error is taken on `s` itself (rules R46, R174). -/

namespace Sys2Proof.Machine

/-- `ANNN`: `I <- NNN` (rule R120). -/
def execLdIndex (nnn : Addr12) (s : State) : Result :=
  .next (s.advance.setIndex (zext16 nnn))

/-- `FX1E`: `I <- (I + V[X]) mod 65536`; under the quirk VF <- 1 on overflow, and VF is never written 0 (rule R121; decision D11).
Assumption log entry 9. -/
def execAddIndex (x : Nibble) (s : State) : Result :=
  let s' := s.advance.setIndex (s.index + (s.reg x).setWidth 16)
  .next (if s.quirks.indexOverflowFlag && indexOverflow s.index (s.reg x) then s'.setFlag true else s')

/-- `FX29`: `I <-` the glyph address of the low nibble of `V[X]` (rule R122). -/
def execLdFont (x : Nibble) (s : State) : Result :=
  .next (s.advance.setIndex (glyphAddress (s.reg x)))

/-- `FX33`: the three decimal digits of `V[X]` to `I`, `I+1`, `I+2` (rule R123). -/
def execLdBcd (x : Nibble) (s : State) : Result :=
  match rangeError s.index.toNat 3 with
  | some e => raise e s
  | none => .next (s.advance.setMem (Memory.writeBytes s.mem s.index.toNat (bcdDigits (s.reg x))))

/-- `FX55`: `V[0]`..`V[X]` to `I`..`I+X` (rule R124). -/
def execStoreRegs (x : Nibble) (s : State) : Result :=
  match rangeError s.index.toNat (x.val + 1) with
  | some e => raise e s
  | none =>
    .next ((s.advance.setMem (Memory.writeBytes s.mem s.index.toNat (regsUpTo x s))).setIndex (indexAfterBlock x s))

/-- `FX65`: `V[0]`..`V[X]` from `I`..`I+X` (rule R125). -/
def execLoadRegs (x : Nibble) (s : State) : Result :=
  match rangeError s.index.toNat (x.val + 1) with
  | some e => raise e s
  | none => .next ((s.advance.setRegs (regsFromMem x s)).setIndex (indexAfterBlock x s))

end Sys2Proof.Machine
end

