-- ==== Sys2Proof/Machine/KeypadTimers.lean ====
section
/-! DEFINITION. The keypad and timer instructions (rules R150 to R155). -/

namespace Sys2Proof.Machine

/-- `EX9E`: skip if key `V[X]` is down; `KeyIndexRange` above 15 (rule R150). -/
def execSkp (x : Nibble) (s : State) : Result :=
  match hexkey (s.reg x) with
  | none => raise (.keyIndexRange (s.reg x)) s
  | some k => .next (s.advance.skipIf (keyDown k s))

/-- `EXA1`: skip if key `V[X]` is not down; `KeyIndexRange` above 15 (rule R151). -/
def execSknp (x : Nibble) (s : State) : Result :=
  match hexkey (s.reg x) with
  | none => raise (.keyIndexRange (s.reg x)) s
  | some k => .next (s.advance.skipIf (!keyDown k s))

/-- `FX07`: `V[X] <- DT` (rule R153). -/
def execLdFromDt (x : Nibble) (s : State) : Result :=
  .next (s.advance.setReg x s.dt)

/-- `FX0A`: `KPREV <- KEYS`; with no key newly down, `PC` is rewound to this instruction; else `V[X] <-` the lowest new key (rule R152; decision D9).
Assumption log entry 10. -/
def execLdKey (x : Nibble) (s : State) : Result :=
  let s' := s.advance.setKprev s.keys
  match lowestKey (newKeys s) with
  | none => .next (s'.setPc (s'.pc - 2))
  | some k => .next (s'.setReg x (BitVec.ofNat 8 k))

/-- `FX15`: `DT <- V[X]` (rule R154). -/
def execLdDt (x : Nibble) (s : State) : Result :=
  .next (s.advance.setDt (s.reg x))

/-- `FX18`: `ST <- V[X]` (rule R155). -/
def execLdSt (x : Nibble) (s : State) : Result :=
  .next (s.advance.setSt (s.reg x))

end Sys2Proof.Machine
end

