-- ==== Sys2Proof/Machine/Display.lean ====
section
/-! DEFINITION. The display bitmap: the primitives of rule R137 and the XOR sprite unit of rule R136. -/

namespace Sys2Proof.Machine

/-- `DispGet(x, y)`, `x` the column and `y` the row (rule R137). It is never called out of range (rule R136 clips first). -/
def Display.get (d : Display) (x y : Nat) : Bool :=
  if h : y < 32 ∧ x < 64 then (d[y]'h.1)[x]'h.2 else false

/-- `DispSet(x, y, b)` (rule R137). -/
def Display.set (d : Display) (x y : Nat) (b : Bool) : Display :=
  if h : y < 32 ∧ x < 64 then Vector.set d y (Vector.set (d[y]'h.1) x b h.2) h.1 else d

/-- `DispClear()` (rules R135, R137). -/
def Display.clear : Display :=
  Vector.replicate 32 (Vector.replicate 64 false)

/-- A display being drawn on, and whether a cell has been turned off so far (`hit` of rule R136). -/
structure Drawing where
  disp : Display
  hit : Bool
  deriving DecidableEq, Repr

/-- Toggle one cell; a cell that was on is a collision (rule R136). -/
def Drawing.toggle (d : Drawing) (x y : Nat) : Drawing where
  disp := d.disp.set x y (!d.disp.get x y)
  hit := d.hit || d.disp.get x y

/-- One bit of a sprite row: column `col` of byte `b` is bit `7 - col`; past column 63 it is clipped (rules R136, R138). -/
def Drawing.bit (b : Byte) (x0 y : Nat) (d : Drawing) (col : Nat) : Drawing :=
  if x0 + col < Config.dispW ∧ b.getLsbD (7 - col) = true then d.toggle (x0 + col) y else d

/-- One sprite row: eight bits, most significant first (rule R136). -/
def Drawing.row (b : Byte) (x0 y : Nat) (d : Drawing) : Drawing :=
  (List.range 8).foldl (Drawing.bit b x0 y) d

/-- The sprite rows `bs` from row `y` down; a row past the last is clipped (rule R136). -/
def Drawing.rows (x0 : Nat) : Nat → List Byte → Drawing → Drawing
  | _, [], d => d
  | y, b :: bs, d => Drawing.rows x0 (y + 1) bs (if y < Config.dispH then d.row b x0 y else d)

/-- A whole sprite drawn on a display, with its collision (rule R136). -/
def Display.draw (d : Display) (x0 y0 : Nat) (bs : List Byte) : Drawing :=
  Drawing.rows x0 y0 bs ⟨d, false⟩

end Sys2Proof.Machine
end

