-- ==== Sys2Proof/Machine/Screen.lean ====
section
/-! DEFINITION. The display instructions (rules R135, R136). -/

namespace Sys2Proof.Machine

/-- `00E0`: every cell off; VF is not written (rule R135). -/
def execCls (s : State) : Result :=
  .next (s.advance.setDisp Display.clear)

/-- `DXYN`: the sprite of `N` bytes at `I`, XORed at `(V[X] mod 64, V[Y] mod 32)` and clipped; VF = collision, always written and written last. All `N` rows
are range-checked, clipped or not (rule R136; decision D12). Assumption log entry 12. -/
def execDrw (x y n : Nibble) (s : State) : Result :=
  match rangeError s.index.toNat n.val with
  | some e => raise e s
  | none =>
    let d := s.disp.draw (originX x s) (originY y s) (spriteRows n s)
    .next ((s.advance.setDisp d.disp).setFlag d.hit)

end Sys2Proof.Machine
end

