-- ==== Sys2Proof/Machine/Cycle.lean ====
section
/-! DEFINITION. The instruction cycle (rule R80), the host's events (rules R179, R181, R190, R192) and the outputs (rules R27, R176). -/

namespace Sys2Proof.Machine

/-- `Step`: one instruction cycle (rules R80, R173, R188). Halted while `ERR ≠ 0`; then the fetch, which may raise `FetchOverrun`; then the
instruction, or a no-op that advances `PC` for an unknown opcode (rules R68, R176). A cycle ends the time in which `LoadROM` is
defined. -/
def cycle (s : State) : Result :=
  match s.err with
  | some _ => .next s
  | none =>
    match fetch s.pc.toNat s with
    | .error e => raise e s
    | .ok w =>
      match decodeWord w with
      | .error _ => .next (s.setRomOpen false).advance
      | .ok i => exec i (s.setRomOpen false)

/-- One timer step down, floored at 0 (rule R179). -/
def countDown (b : Byte) : Byte := if b = 0x00 then 0x00 else b - 0x01

/-- `Tick` (rule R179). No effect while `ERR ≠ 0` (rule R175). -/
def tick (s : State) : State :=
  match s.err with
  | some _ => s
  | none => ((s.setDt (countDown s.dt)).setSt (countDown s.st)).setRomOpen false

/-- `KeypadUpdate(k)` (rule R181). No effect while `ERR ≠ 0` (rule R175). -/
def keypadUpdate (k : Word) (s : State) : State :=
  match s.err with
  | some _ => s
  | none => (s.setKeys k).setRomOpen false

/-- `LoadROM(bytes)` (rule R192): no effect while `ERR ≠ 0`; defined only just after `Reset` and refused elsewhere (decision D21); a ROM of more
than 3584 bytes is an error that leaves memory as it was. -/
def loadRom (bytes : List Byte) (s : State) : Result :=
  match s.err with
  | some _ => .next s
  | none =>
    if s.romOpen then
      if romFits bytes then .next ((s.setMem (Memory.writeBytes s.mem Config.romBase bytes)).setRomOpen false)
      else raise (.romTooLarge bytes.length) s
    else .refused .loadRomNotAfterReset

/-- `Reset(q)`: at any time, whatever `ERR` (rules R28, R190). What is not the machine's stays: the events the host has still to issue, the
random bytes it has supplied and the number drawn. -/
def resetEvent (q : Quirks) (s : State) : State :=
  ((State.resetWith q).setRandom s.rndIn s.draws).setPending s.pending

/-- An event happens (rule R26). -/
def perform (e : Event) (s : State) : Result :=
  match e with
  | .reset q => .next (resetEvent q s)
  | .loadRom bytes => loadRom bytes s
  | .keypadUpdate k => .next (keypadUpdate k s)
  | .tick => .next (tick s)
  | .step => cycle s

/-- One frame of the host's loop with `n` = `CYCLES_PER_TICK` cycles (rule R184; C1, decision D16). No rule depends on this order. -/
def frame (k : Word) (n : Nat) : List Event :=
  .keypadUpdate k :: .tick :: List.replicate n .step

/-- The unknown-opcode strobe of the cycle from `s`: the word, if the cycle executes an unknown opcode (rules R27, R176). It is an output of
the cycle, not state. -/
def strobe (s : State) : Option Word :=
  match s.err, fetch s.pc.toNat s with
  | none, .ok w =>
    match decodeWord w with
    | .error _ => some w
    | .ok _ => none
  | _, _ => none

/-- The outputs that are functions of the state (rule R27). -/
structure Outputs where
  display : Display
  sound : Byte
  delay : Byte
  error : Nat
  stackTop : Option Word
  deriving DecidableEq, Repr

/-- What the host reads between events (rules R27, R182). -/
def outputs (s : State) : Outputs where
  display := s.disp
  sound := s.st
  delay := s.dt
  error := errCode s.err
  stackTop := peek s

/-- A word stored where the next fetch takes it: at `PC`, high byte first. A state that could not fetch is made one that can: no event is
pending, `ERR` is clear, and a `PC` beyond 0xFFE becomes the reset entry. -/
def placeWord (s : State) (w : Word) : State :=
  let a : Word := if s.pc.toNat + 1 < Config.memSize then s.pc else 0x0200
  (((s.setPending []).setErr none).setPc a).setMem (Memory.writeBytes s.mem a.toNat (wordBytes w))

end Sys2Proof.Machine
end

