-- ==== Sys2Proof/Machine/Step.lean ====
section
/-! DEFINITION. The one step: the oldest event the host has issued happens; when it has issued none, it grants a cycle (rules R8, R26). -/

namespace Sys2Proof.Machine

/-- One event of the machine's history. -/
def step (s : State) : Host.Outcome State Fault Refusal :=
  match s.pending with
  | [] => cycle s
  | e :: rest => perform e (s.setPending rest)

/-- The state with the word of a table row (`nbits` bits of `w`, zeros above) where the next step fetches it. -/
def State.withFetchWord (s : State) (nbits w : Nat) : State :=
  placeWord s (tableWord nbits w)

end Sys2Proof.Machine
end

