-- ==== Sys2Proof/Safety.lean ====
section
/-! DEFINITION. What claims mean by a halted machine, a quiescent one, a safe run, and the invariant every step keeps. -/

namespace Sys2Proof.Machine

/-- `ERR ≠ 0`: what the spec calls a fault, never a final state of a correct run (rule R175). -/
def State.halted (s : State) : Bool := s.err.isSome

/-- Quiescent: `ERR = 0` and the word at `PC` is a jump to `PC` itself (rule R200; decision D20). -/
def State.quiescent (s : State) : Bool :=
  match s.err, fetch s.pc.toNat s with
  | none, .ok w =>
    match decodeWord w with
    | .ok (.jp nnn) => zext16 nnn == s.pc
    | _ => false
  | _, _ => false

/-- A safe run of `n` steps: each answers a next state and no state on the way, the last included, is halted (rules R174, R175). -/
def safeRun : Nat → State → Prop
  | 0, s => s.halted = false
  | n + 1, s => s.halted = false ∧ ∃ t, step s = .next t ∧ safeRun n t

/-- The invariant: what holds after `Reset` and is kept by every event. -/
structure Inv (s : State) : Prop where
  /-- Memory is in canonical form and lists no address beyond 0xFFF (rule R40). -/
  memory : Memory.wf s.mem = true
  /-- `SP` is in 0..STACK_DEPTH (rule R15). -/
  depth : s.sp ≤ stackDepth
  /-- "any value a 2NNN pushed is ≤ 0x1000" (rule R82). -/
  returns : ∀ w ∈ s.stack, w.toNat ≤ 0x1000
  /-- `PC` can hold "a value up to 0x10FE" and so its arithmetic never wraps (rule R14). -/
  counter : s.pc.toNat ≤ 0x10FE

end Sys2Proof.Machine
end

