-- ==== Sys2Proof/Certificates/Slice0/Obligations.lean ====
section
/-! DEFINITION. The statements for the provers, after the vocabulary they are written in. The vocabulary is the spec's side: words read digit by
digit, results as natural numbers, frames part by part; it names no meaning of an instruction. -/

namespace Sys2Proof.Claims

open Sys2Proof.Machine

/-- Hexadecimal digit `k` of a word, digit 3 the most significant (rule R6). -/
def digit (w : Word) (k : Nat) : Nat := w.toNat / 16 ^ k % 16

/-- The low byte of a word as a number, the field `NN` (rule R61). -/
def lowTwo (w : Word) : Nat := w.toNat % 256

/-- The low twelve bits of a word as a number, the field `NNN` (rule R61). -/
def lowThree (w : Word) : Nat := w.toNat % 4096

/-- `w` is the word whose hexadecimal digits spell the pattern of `i` with its operands (the Pattern column of rule R67). -/
def spelled : Instr → Word → Prop
  | .cls, w => w.toNat = 0x00E0
  | .ret, w => w.toNat = 0x00EE
  | .jp nnn, w => digit w 3 = 0x1 ∧ lowThree w = nnn.toNat
  | .call nnn, w => digit w 3 = 0x2 ∧ lowThree w = nnn.toNat
  | .seImm x nn, w => digit w 3 = 0x3 ∧ digit w 2 = x.val ∧ lowTwo w = nn.toNat
  | .sneImm x nn, w => digit w 3 = 0x4 ∧ digit w 2 = x.val ∧ lowTwo w = nn.toNat
  | .seReg x y, w => digit w 3 = 0x5 ∧ digit w 2 = x.val ∧ digit w 1 = y.val ∧ digit w 0 = 0x0
  | .ldImm x nn, w => digit w 3 = 0x6 ∧ digit w 2 = x.val ∧ lowTwo w = nn.toNat
  | .addImm x nn, w => digit w 3 = 0x7 ∧ digit w 2 = x.val ∧ lowTwo w = nn.toNat
  | .ldReg x y, w => digit w 3 = 0x8 ∧ digit w 2 = x.val ∧ digit w 1 = y.val ∧ digit w 0 = 0x0
  | .orReg x y, w => digit w 3 = 0x8 ∧ digit w 2 = x.val ∧ digit w 1 = y.val ∧ digit w 0 = 0x1
  | .andReg x y, w => digit w 3 = 0x8 ∧ digit w 2 = x.val ∧ digit w 1 = y.val ∧ digit w 0 = 0x2
  | .xorReg x y, w => digit w 3 = 0x8 ∧ digit w 2 = x.val ∧ digit w 1 = y.val ∧ digit w 0 = 0x3
  | .addReg x y, w => digit w 3 = 0x8 ∧ digit w 2 = x.val ∧ digit w 1 = y.val ∧ digit w 0 = 0x4
  | .subReg x y, w => digit w 3 = 0x8 ∧ digit w 2 = x.val ∧ digit w 1 = y.val ∧ digit w 0 = 0x5
  | .shr x y, w => digit w 3 = 0x8 ∧ digit w 2 = x.val ∧ digit w 1 = y.val ∧ digit w 0 = 0x6
  | .subn x y, w => digit w 3 = 0x8 ∧ digit w 2 = x.val ∧ digit w 1 = y.val ∧ digit w 0 = 0x7
  | .shl x y, w => digit w 3 = 0x8 ∧ digit w 2 = x.val ∧ digit w 1 = y.val ∧ digit w 0 = 0xE
  | .sneReg x y, w => digit w 3 = 0x9 ∧ digit w 2 = x.val ∧ digit w 1 = y.val ∧ digit w 0 = 0x0
  | .ldIndex nnn, w => digit w 3 = 0xA ∧ lowThree w = nnn.toNat
  | .jpOffset nnn, w => digit w 3 = 0xB ∧ lowThree w = nnn.toNat
  | .rnd x nn, w => digit w 3 = 0xC ∧ digit w 2 = x.val ∧ lowTwo w = nn.toNat
  | .drw x y n, w => digit w 3 = 0xD ∧ digit w 2 = x.val ∧ digit w 1 = y.val ∧ digit w 0 = n.val
  | .skp x, w => digit w 3 = 0xE ∧ digit w 2 = x.val ∧ lowTwo w = 0x9E
  | .sknp x, w => digit w 3 = 0xE ∧ digit w 2 = x.val ∧ lowTwo w = 0xA1
  | .ldFromDt x, w => digit w 3 = 0xF ∧ digit w 2 = x.val ∧ lowTwo w = 0x07
  | .ldKey x, w => digit w 3 = 0xF ∧ digit w 2 = x.val ∧ lowTwo w = 0x0A
  | .ldDt x, w => digit w 3 = 0xF ∧ digit w 2 = x.val ∧ lowTwo w = 0x15
  | .ldSt x, w => digit w 3 = 0xF ∧ digit w 2 = x.val ∧ lowTwo w = 0x18
  | .addIndex x, w => digit w 3 = 0xF ∧ digit w 2 = x.val ∧ lowTwo w = 0x1E
  | .ldFont x, w => digit w 3 = 0xF ∧ digit w 2 = x.val ∧ lowTwo w = 0x29
  | .ldBcd x, w => digit w 3 = 0xF ∧ digit w 2 = x.val ∧ lowTwo w = 0x33
  | .storeRegs x, w => digit w 3 = 0xF ∧ digit w 2 = x.val ∧ lowTwo w = 0x55
  | .loadRegs x, w => digit w 3 = 0xF ∧ digit w 2 = x.val ∧ lowTwo w = 0x65

/-- The decoder reads `i` from a word exactly when the word's digits spell `i`. -/
def EncodedAsSpelled (i : Instr) : Prop := ∀ w, decodeWord w = .ok i ↔ spelled i w

/-- The words of the unknown space, by first nibble (the table of rule R69). -/
def unknownDigits (w : Word) : Prop :=
  (digit w 3 = 0x0 ∧ lowThree w ≠ 0x0E0 ∧ lowThree w ≠ 0x0EE) ∨
  (digit w 3 = 0x5 ∧ digit w 0 ≠ 0) ∨
  (digit w 3 = 0x8 ∧ digit w 0 ∈ [0x8, 0x9, 0xA, 0xB, 0xC, 0xD, 0xF]) ∨
  (digit w 3 = 0x9 ∧ digit w 0 ≠ 0) ∨
  (digit w 3 = 0xE ∧ lowTwo w ∉ [0x9E, 0xA1]) ∨
  (digit w 3 = 0xF ∧ lowTwo w ∉ [0x07, 0x0A, 0x15, 0x18, 0x1E, 0x29, 0x33, 0x55, 0x65])

/-! Frames. -/

/-- The parts of the state. -/
inductive Part where
  | regs | index | pc | stack | dt | st | mem | screen | keys | kprev | quirks | err | romOpen | random | pending
  deriving DecidableEq, Repr

/-- The part is the same before and after; memory byte by byte, the screen cell by cell. -/
def Kept : Part → State → State → Prop
  | .regs, s, t => ∀ j, t.reg j = s.reg j
  | .index, s, t => t.index = s.index
  | .pc, s, t => t.pc = s.pc
  | .stack, s, t => t.stack = s.stack
  | .dt, s, t => t.dt = s.dt
  | .st, s, t => t.st = s.st
  | .mem, s, t => ∀ a, t.byte a = s.byte a
  | .screen, s, t => ∀ x y, t.disp.get x y = s.disp.get x y
  | .keys, s, t => t.keys = s.keys
  | .kprev, s, t => t.kprev = s.kprev
  | .quirks, s, t => t.quirks = s.quirks
  | .err, s, t => t.err = s.err
  | .romOpen, s, t => t.romOpen = s.romOpen
  | .random, s, t => t.rndIn = s.rndIn ∧ t.draws = s.draws
  | .pending, s, t => t.pending = s.pending

/-- Every part is kept but, at most, the ones listed. -/
def KeepsAllBut (ps : List Part) (s t : State) : Prop := ∀ p, p ∉ ps → Kept p s t

/-- Every V register is kept but, at most, the ones listed. -/
def KeepsRegsBut (js : List Nibble) (s t : State) : Prop := ∀ j, j ∉ js → t.reg j = s.reg j

/-- Every byte of memory is kept outside the `count` bytes at `first`. -/
def KeepsBytesOutside (first count : Nat) (s t : State) : Prop :=
  ∀ a, (a < first ∨ first + count ≤ a) → t.byte a = s.byte a

/-- The event ended in the fatal error `c` and changed nothing else (rule R174). -/
def FailsWith (c : Cause) (s : State) (r : Result) : Prop :=
  ∃ t, r = .next t ∧ t.err = some c ∧ KeepsAllBut [.err] s t

/-! Tables of the rules. -/

/-- Destination and result of the instructions that compute one register and no flag (rules R100 to R105). -/
def plainAlu (s : State) : Instr → Option (Nibble × Nat)
  | .ldImm x nn => some (x, nn.toNat)
  | .addImm x nn => some (x, ((s.reg x).toNat + nn.toNat) % 256)
  | .ldReg x y => some (x, (s.reg y).toNat)
  | .orReg x y => some (x, (s.reg x).toNat ||| (s.reg y).toNat)
  | .andReg x y => some (x, (s.reg x).toNat &&& (s.reg y).toNat)
  | .xorReg x y => some (x, (s.reg x).toNat ^^^ (s.reg y).toNat)
  | _ => none

/-- The value a shift shifts (rules R108, R110). -/
def shifted (s : State) (x y : Nibble) : Nat :=
  if s.quirks.shiftUsesVy then (s.reg y).toNat else (s.reg x).toNat

/-- Destination, result and flag of the instructions that compute one register and VF (the table of rule R113). -/
def flagAlu (s : State) : Instr → Option (Nibble × Nat × Nat)
  | .addReg x y => some (x, ((s.reg x).toNat + (s.reg y).toNat) % 256, if (s.reg x).toNat + (s.reg y).toNat > 255 then 1 else 0)
  | .subReg x y =>
    some (x, ((s.reg x).toNat + 256 - (s.reg y).toNat) % 256, if (s.reg x).toNat ≥ (s.reg y).toNat then 1 else 0)
  | .subn x y =>
    some (x, ((s.reg y).toNat + 256 - (s.reg x).toNat) % 256, if (s.reg y).toNat ≥ (s.reg x).toNat then 1 else 0)
  | .shr x y => some (x, shifted s x y / 2, shifted s x y % 2)
  | .shl x y => some (x, 2 * shifted s x y % 256, shifted s x y / 128)
  | _ => none

/-- Whether one of the four plain skips is taken (rules R85 to R88). -/
def skipTaken (s : State) : Instr → Option Bool
  | .seImm x nn => some (decide ((s.reg x).toNat = nn.toNat))
  | .sneImm x nn => some (decide ((s.reg x).toNat ≠ nn.toNat))
  | .seReg x y => some (decide ((s.reg x).toNat = (s.reg y).toNat))
  | .sneReg x y => some (decide ((s.reg x).toNat ≠ (s.reg y).toNat))
  | _ => none

/-- Destination of BNNN as a number (rule R89): the register index is the top nibble of `NNN`. -/
def offsetTarget (s : State) (nnn : Addr12) : Nat :=
  nnn.toNat + if s.quirks.jumpUsesVx then (s.reg (Fin.ofNat 16 (nnn.toNat / 256))).toNat else (s.reg 0).toNat

/-- The fatal error of an instruction's execution, if its condition holds (rules R166 to R168, R171, R172). -/
def errorOf (s : State) : Instr → Option Cause
  | .ret => if s.stack = [] then some .stackUnderflow else none
  | .call _ => if 16 ≤ s.sp then some .stackOverflow else none
  | .drw _ _ n => if 0 < n.val ∧ 0xFFF < s.index.toNat + n.val - 1 then some .memoryOverrun else none
  | .ldBcd _ => if 0xFFF < s.index.toNat + 2 then some .memoryOverrun else none
  | .storeRegs x => if 0xFFF < s.index.toNat + x.val then some .memoryOverrun else none
  | .loadRegs x => if 0xFFF < s.index.toNat + x.val then some .memoryOverrun else none
  | .skp x => if 15 < (s.reg x).toNat then some .keyIndexRange else none
  | .sknp x => if 15 < (s.reg x).toNat then some .keyIndexRange else none
  | _ => none

/-- `PC` after an instruction that raises no error (the table of rule R91). -/
def pcAfter (s : State) : Instr → Word
  | .ret => s.stack.headD 0
  | .jp nnn => BitVec.ofNat 16 nnn.toNat
  | .call nnn => BitVec.ofNat 16 nnn.toNat
  | .jpOffset nnn => BitVec.ofNat 16 (offsetTarget s nnn)
  | .skp x => if s.keys.getLsbD (s.reg x).toNat then s.pc + 4 else s.pc + 2
  | .sknp x => if s.keys.getLsbD (s.reg x).toNat then s.pc + 2 else s.pc + 4
  | .ldKey _ => if s.keys &&& ~~~s.kprev = 0 then s.pc else s.pc + 2
  | i => if skipTaken s i = some true then s.pc + 4 else s.pc + 2

/-- The parts an instruction may write (10_state.md section 1, column "Written by"). -/
def writes : Instr → List Part
  | .cls => [.pc, .screen]
  | .ret => [.pc, .stack, .err]
  | .call _ => [.pc, .stack, .err]
  | .jp _ | .jpOffset _ | .seImm _ _ | .sneImm _ _ | .seReg _ _ | .sneReg _ _ => [.pc]
  | .ldImm _ _ | .addImm _ _ | .ldReg _ _ | .orReg _ _ | .andReg _ _ | .xorReg _ _ => [.pc, .regs]
  | .addReg _ _ | .subReg _ _ | .shr _ _ | .subn _ _ | .shl _ _ => [.pc, .regs]
  | .rnd _ _ => [.pc, .regs, .random]
  | .ldIndex _ | .ldFont _ => [.pc, .index]
  | .addIndex _ => [.pc, .index, .regs]
  | .drw _ _ _ => [.pc, .screen, .regs, .err]
  | .skp _ | .sknp _ => [.pc, .err]
  | .ldFromDt _ => [.pc, .regs]
  | .ldKey _ => [.pc, .regs, .kprev]
  | .ldDt _ => [.pc, .dt]
  | .ldSt _ => [.pc, .st]
  | .ldBcd _ => [.pc, .mem, .err]
  | .storeRegs _ => [.pc, .mem, .index, .err]
  | .loadRegs _ => [.pc, .regs, .index, .err]

/-- The V registers an instruction may write: its destination, and VF where it is a flag writer (rules R10, R11). -/
def regsWritten : Instr → List Nibble
  | .ldImm x _ | .addImm x _ | .ldReg x _ | .orReg x _ | .andReg x _ | .xorReg x _ | .rnd x _ | .ldFromDt x | .ldKey x => [x]
  | .addReg x _ | .subReg x _ | .shr x _ | .subn x _ | .shl x _ => [x, 15]
  | .addIndex _ | .drw _ _ _ => [15]
  | .loadRegs x => (List.finRange 16).filter fun j => j ≤ x
  | _ => []

/-- The bytes an instruction may store: first address and count (rule R49). -/
def bytesWritten (s : State) : Instr → Nat × Nat
  | .ldBcd _ => (s.index.toNat, 3)
  | .storeRegs x => (s.index.toNat, x.val + 1)
  | _ => (0, 0)

/-- Whether the clipped sprite of DXYN covers cell `(x, y)` with a 1 bit: sprite row `r`, bit `7 - c` of its byte, is cell
`(x0 + c, y0 + r)` (rule R138). Asked only of cells on the screen, which is the clipping. -/
def covered (s : State) (vx vy n : Nibble) (x y : Nat) : Bool :=
  decide ((s.reg vx).toNat % 64 ≤ x ∧ x < (s.reg vx).toNat % 64 + 8 ∧ (s.reg vy).toNat % 32 ≤ y ∧ y < (s.reg vy).toNat % 32 + n.val) &&
    (s.byte (s.index.toNat + (y - (s.reg vy).toNat % 32))).getLsbD (7 - (x - (s.reg vx).toNat % 64))

/-- DXYN reads bytes that all exist (rule R136). -/
def spriteInMemory (s : State) (n : Nibble) : Prop := n.val = 0 ∨ s.index.toNat + n.val - 1 ≤ 0xFFF

end Sys2Proof.Claims

open Sys2Proof Sys2Proof.Machine Sys2Proof.Claims

/-! Encoding. -/

/-- Decoding the bytes of an encoded instruction gives it back and takes exactly its two bytes (30_encoding.md, R60, R72). -/
def Obligations.DecodeOfEncodeIsTheInstruction : Prop :=
  ∀ (i : Instr) (rest : List Byte), decode (encodeBytes i ++ rest) = .ok (i, rest)

/-- Every bit of a defined word is fixed or a field: encoding what was decoded gives the word back (30_encoding.md, R64). -/
def Obligations.EncodeOfDecodeIsTheWord : Prop :=
  ∀ (w : Word) (i : Instr), decodeWord w = .ok i → encode i = w

/-- The opcode map of rule R67 decides what a word is. -/
def Obligations.OpcodeMapDecidesTheInstruction : Prop :=
  opcodeTable.length = 34 ∧
  (∀ (w : Word) (i : Instr), decodeWord w = .ok i → rowOf i ∈ opcodeTable ∧ w &&& (rowOf i).mask = (rowOf i).pattern) ∧
  (∀ (w : Word) (r : Row), r ∈ opcodeTable → w &&& r.mask = r.pattern → ∃ i, decodeWord w = .ok i ∧ rowOf i = r) ∧
  (∀ (w : Word) (r r' : Row), r ∈ opcodeTable → r' ∈ opcodeTable → w &&& r.mask = r.pattern → w &&& r'.mask = r'.pattern → r = r')

/-- Every word is read digit by digit: the decoder answers `i` exactly for the words that spell `i` (30_encoding.md, R61, R66, R67). -/
def Obligations.EveryWordIsReadFromItsDigits : Prop :=
  ∀ i : Instr, EncodedAsSpelled i

/-- The unknown opcodes are the words of the table in rule R69, and decoding is total: a word is unknown or one instruction. -/
def Obligations.UnknownWordsAreTheListedOnes : Prop :=
  ∀ w : Word, (unknownDigits w → decodeWord w = .error (.unknownOpcode w)) ∧ (¬unknownDigits w → ∃ i, decodeWord w = .ok i)

/-- Words written out in the spec decode to the instructions the spec says they are (R72 and 95_test_vectors.md). -/
def Obligations.WrittenOutWordsDecode : Prop :=
  decodeWord 0x632A = .ok (.ldImm 3 0x2A) ∧ decodeWord 0x8124 = .ok (.addReg 1 2) ∧ decodeWord 0xD015 = .ok (.drw 0 1 5) ∧
  decodeWord 0x1200 = .ok (.jp 0x200) ∧ decodeWord 0xFA0A = .ok (.ldKey 0xA) ∧ decodeWord 0x00EE = .ok .ret ∧
  decodeWord 0xA2F0 = .ok (.ldIndex 0x2F0) ∧ decodeWord 0xE19E = .ok (.skp 1) ∧ decodeWord 0xF165 = .ok (.loadRegs 1) ∧
  decodeWord 0x5123 = .error (.unknownOpcode 0x5123)

/-- The six views in terms of the two bytes of an instruction (rule R61). -/
def Obligations.FieldsAreViewsOfTheTwoBytes : Prop :=
  ∀ b0 b1 : Byte,
    (fieldsOf (compose b0 b1)).op.val = b0.toNat / 16 ∧ (fieldsOf (compose b0 b1)).x.val = b0.toNat % 16 ∧
    (fieldsOf (compose b0 b1)).y.val = b1.toNat / 16 ∧ (fieldsOf (compose b0 b1)).n.val = b1.toNat % 16 ∧
    (fieldsOf (compose b0 b1)).nn = b1 ∧ (fieldsOf (compose b0 b1)).nnn.toNat = b0.toNat % 16 * 256 + b1.toNat ∧
    (fieldsOf (compose b0 b1)).wf = true

/-- The bit-field extractor (rule R62): when a range is refused, what a valid one gives, the symmetric cases, and the six fields. -/
def Obligations.ExtractorTakesTheHalfOpenRange : Prop :=
  (∀ (W : Nat) (w : BitVec W) (start stop : Nat),
    (extract w start stop = none ↔ start > stop ∨ start ≥ W ∨ stop > W) ∧
    (start ≤ stop → start < W → stop ≤ W → extract w start stop = some (w.toNat / 2 ^ start % 2 ^ (stop - start))) ∧
    (0 < W → extract w 0 W = some w.toNat) ∧
    (start < W → extract w start (start + 1) = some (if w.getLsbD start then 1 else 0)) ∧
    (start < W → extract w start start = some 0)) ∧
  (∀ w : Word,
    extract w 12 16 = some (fieldsOf w).op.val ∧ extract w 8 12 = some (fieldsOf w).x.val ∧
    extract w 4 8 = some (fieldsOf w).y.val ∧ extract w 0 4 = some (fieldsOf w).n.val ∧
    extract w 0 8 = some (fieldsOf w).nn.toNat ∧ extract w 0 12 = some (fieldsOf w).nnn.toNat)

/-- The composer, and its one use, fetch (rule R63). -/
def Obligations.ComposerPutsTheFirstOperandHigh : Prop :=
  (∀ (m n : Nat) (a : BitVec m) (b : BitVec n), (compose a b).toNat = a.toNat * 2 ^ n + b.toNat) ∧
  (∀ (s : State) (w : Word), fetch s.pc.toNat s = .ok w → w = compose (s.byte s.pc.toNat) (s.byte (s.pc.toNat + 1)))

/-! The cycle. -/

/-- When the bytes at `PC` decode to `i`, a step with no event pending, or with a `Step` pending, is `exec i`; around it the step only
ends the time in which a ROM may be loaded and takes the pending `Step` off the list (rule R80; the list is the model's own, log
entry 1). -/
def Obligations.StepRunsTheDecodedInstruction : Prop :=
  ∀ (s : State) (i : Instr), s.err = none → s.pc.toNat + 1 < 4096 →
    decode [s.byte s.pc.toNat, s.byte (s.pc.toNat + 1)] = .ok (i, []) →
    (s.pending = [] → step s = exec i (s.setRomOpen false)) ∧
    (∀ rest, s.pending = .step :: rest → step s = exec i ((s.setPending rest).setRomOpen false))

/-- A word that matches no row of the opcode map is a no-op that advances `PC` by 2 and fires the strobe with it; a known instruction fires
none; 0x5123 matches no row (30_encoding.md R68). The strobe as a function of the state before the cycle rests on 60_exceptions.md R176, decision
D15 and log entry 20; the flag `romOpen` is the model's own (log entry 13). -/
def Obligations.UnknownOpcodeOnlyAdvancesPc : Prop :=
  (∀ (s : State) (w : Word), s.err = none → s.pending = [] → fetch s.pc.toNat s = .ok w →
    (∀ r ∈ opcodeTable, w &&& r.mask ≠ r.pattern) →
    (∃ t, step s = .next t ∧ t.pc = s.pc + 2 ∧ KeepsAllBut [.pc, .romOpen] s t) ∧ strobe s = some w) ∧
  (∀ (s : State) (w : Word) (i : Instr), fetch s.pc.toNat s = .ok w → decodeWord w = .ok i → strobe s = none) ∧
  (∀ r ∈ opcodeTable, 0x5123 &&& r.mask ≠ r.pattern)

/-- A fetch that needs a byte beyond 0xFFF latches `FetchOverrun` and changes nothing else (20_memory.md R47 and 60_exceptions.md R170 rest on
decision D5, the latch on D8). -/
def Obligations.FetchBeyondMemoryLatchesTheError : Prop :=
  ∀ s : State, s.err = none → s.pending = [] → 0xFFF ≤ s.pc.toNat → FailsWith .fetchOverrun s (step s)

/-- While `ERR ≠ 0` every event but `Reset` leaves the machine as it is, and `Reset` leaves that condition (60_exceptions.md R175, decision D8).
The pending event itself is taken off the model's own list. -/
def Obligations.HaltedUntilReset : Prop :=
  (∀ (s : State) (e : Event) (rest : List Event), s.err ≠ none → s.pending = e :: rest → (∀ q, e ≠ .reset q) →
    step s = .next (s.setPending rest)) ∧
  (∀ s : State, s.err ≠ none → s.pending = [] → step s = .next s) ∧
  (∀ (s : State) (q : Quirks) (rest : List Event), s.pending = .reset q :: rest → ∃ t, step s = .next t ∧ t.err = none)

/-- Errors are precise: an event that ends with a fresh error has changed nothing but `ERR` (60_exceptions.md R174, decisions D7 and D8;
`romOpen` and `pending` are the model's own). -/
def Obligations.FatalErrorsArePrecise : Prop :=
  ∀ s t : State, s.err = none → step s = .next t → t.err ≠ none → KeepsAllBut [.err, .romOpen, .pending] s t

/-- Each instruction raises exactly the error listed for it, exactly on the listed condition (60_exceptions.md R166, R173; decisions D2, D7, D10). -/
def Obligations.ErrorsAreRaisedExactlyAsListed : Prop :=
  ∀ (i : Instr) (s : State), s.err = none → ∃ t, exec i s = .next t ∧ t.err = errorOf s i

/-- Every instruction completes in every state, and keeps every part of the machine, every register and every byte that the spec does
not let it write (10_state.md section 1, R10, R11, R17 to R23, R49). -/
def Obligations.EveryInstructionKeepsWhatItDoesNotWrite : Prop :=
  ∀ (i : Instr) (s : State), ∃ t, exec i s = .next t ∧ KeepsAllBut (writes i) s t ∧ KeepsRegsBut (regsWritten i) s t ∧
    KeepsBytesOutside (bytesWritten s i).1 (bytesWritten s i).2 s t

/-- How every instruction leaves `PC` (40_flow.md R91, marked as derived there; decision D7 for the error case). -/
def Obligations.PcAfterEveryInstruction : Prop :=
  ∀ (i : Instr) (s : State), s.err = none →
    ∃ t, exec i s = .next t ∧ t.pc = if (errorOf s i).isSome then s.pc else pcAfter s i

/-- Every event keeps the invariant: canonical memory inside 0x000..0xFFF, at most 16 return addresses, each at most 0x1000, and
`PC` at most 0x10FE, so that its arithmetic never wraps (20_memory.md R40, 10_state.md R14, R15, 40_flow.md R82). -/
def Obligations.EveryStepKeepsTheInvariant : Prop :=
  ∀ s t : State, Inv s → step s = .next t → Inv t

/-- The invariant holds after reset, whatever the quirks. -/
def Obligations.InvariantHoldsAfterReset : Prop :=
  (∀ q : Quirks, Inv (State.resetWith q)) ∧ Inv State.reset

/-- A step answers a next state, except that a `LoadROM` which does not come just after `Reset` is refused (60_exceptions.md R188; the refusal
is U14, decision D21, log entry 13). -/
def Obligations.OnlyAMisplacedLoadIsRefused : Prop :=
  ∀ s : State, (∃ t, step s = .next t) ∨
    (step s = .refused .loadRomNotAfterReset ∧ s.err = none ∧ s.romOpen = false ∧ ∃ bytes rest, s.pending = .loadRom bytes :: rest)

/-! Register load, arithmetic and logic. -/

/-- 6XNN, 7XNN, 8XY0, 8XY1, 8XY2, 8XY3: encoding, result and frame; VF is not a flag here (rules R100 to R105). -/
def Obligations.LoadAddAndLogicWriteOneRegister : Prop :=
  ∀ (i : Instr) (s : State) (x : Nibble) (r : Nat), plainAlu s i = some (x, r) →
    EncodedAsSpelled i ∧
    ∃ t, exec i s = .next t ∧ (t.reg x).toNat = r ∧ KeepsRegsBut [x] s t ∧ t.pc = s.pc + 2 ∧ KeepsAllBut [.regs, .pc] s t

/-- 8XY4, 8XY5, 8XY7, 8XY6, 8XYE: encoding, result, flag and frame; with `X = 15` VF ends as the flag (41_alu.md R106 to R110, R113, resting on
decision D4 for `X = 15`). -/
def Obligations.FlagArithmeticWritesResultThenFlag : Prop :=
  ∀ (i : Instr) (s : State) (x : Nibble) (r f : Nat), flagAlu s i = some (x, r, f) →
    EncodedAsSpelled i ∧
    ∃ t, exec i s = .next t ∧ (t.reg 15).toNat = f ∧ (x ≠ 15 → (t.reg x).toNat = r) ∧ KeepsRegsBut [x, 15] s t ∧
      t.pc = s.pc + 2 ∧ KeepsAllBut [.regs, .pc] s t

/-- CXNN for every random byte: the byte the host supplied, else the free value (41_alu.md R111, decision D14; log entry 3). It holds for every
value of the free function, of which nothing is known. -/
def Obligations.RandomByteIsMaskedAndConsumedOnce : Prop :=
  ∀ (x : Nibble) (nn : Byte), EncodedAsSpelled (.rnd x nn) ∧
    ∀ s : State, ∃ t, exec (.rnd x nn) s = .next t ∧
      (∀ r rest, s.rndIn = r :: rest → (t.reg x).toNat = r.toNat &&& nn.toNat ∧ t.rndIn = rest ∧ t.draws = s.draws) ∧
      (s.rndIn = [] → (t.reg x).toNat = (Config.randomByte s.draws).toNat &&& nn.toNat ∧ t.rndIn = [] ∧ t.draws = s.draws + 1) ∧
      KeepsRegsBut [x] s t ∧ t.pc = s.pc + 2 ∧ KeepsAllBut [.regs, .pc, .random] s t

/-! Control transfer. -/

/-- 1NNN: encoding, target, frame; a jump to its own address changes nothing at all (rule R83). -/
def Obligations.JumpLoadsPc : Prop :=
  ∀ nnn : Addr12, EncodedAsSpelled (.jp nnn) ∧
    ∀ s : State, ∃ t, exec (.jp nnn) s = .next t ∧ t.pc.toNat = nnn.toNat ∧ KeepsAllBut [.pc] s t ∧
      (s.pc.toNat = nnn.toNat → t = s)

/-- 2NNN: the return address pushed, the target, the frame; on a full stack the error and nothing else (40_flow.md R84, decision D2). -/
def Obligations.CallPushesTheReturnAddress : Prop :=
  ∀ nnn : Addr12, EncodedAsSpelled (.call nnn) ∧
    ∀ s : State,
      (s.sp < 16 → ∃ t, exec (.call nnn) s = .next t ∧ t.stack = (s.pc + 2) :: s.stack ∧ t.sp = s.sp + 1 ∧
        t.pc.toNat = nnn.toNat ∧ KeepsAllBut [.pc, .stack] s t) ∧
      (16 ≤ s.sp → FailsWith .stackOverflow s (exec (.call nnn) s))

/-- 00EE: the popped value, all sixteen bits, becomes `PC`; an empty stack is an error that changes nothing else; right after 2NNN it restores
the address of the instruction after the call (rule R82). -/
def Obligations.ReturnPopsTheStackIntoPc : Prop :=
  EncodedAsSpelled .ret ∧
  (∀ (s : State) (w : Word) (rest : List Word), s.stack = w :: rest →
    ∃ t, exec .ret s = .next t ∧ t.pc = w ∧ t.stack = rest ∧ KeepsAllBut [.pc, .stack] s t) ∧
  (∀ s : State, s.stack = [] → FailsWith .stackUnderflow s (exec .ret s)) ∧
  (∀ (s u : State) (nnn : Addr12), s.sp < 16 → exec (.call nnn) s = .next u →
    ∃ t, exec .ret u = .next t ∧ t.pc = s.pc + 2 ∧ t.stack = s.stack)

/-- 3XNN, 4XNN, 5XY0, 9XY0: encoding, condition over all eight bits, frame; the words 5XYN and 9XYN with `N ≠ 0` are unknown (rules R85 to R88). -/
def Obligations.SkipsFollowTheirCondition : Prop :=
  (∀ (i : Instr) (s : State) (c : Bool), skipTaken s i = some c →
    EncodedAsSpelled i ∧
    ∃ t, exec i s = .next t ∧ t.pc = (if c then s.pc + 4 else s.pc + 2) ∧ KeepsAllBut [.pc] s t) ∧
  (∀ w : Word, (digit w 3 = 0x5 ∨ digit w 3 = 0x9) → digit w 0 ≠ 0 → decodeWord w = .error (.unknownOpcode w))

/-- BNNN: the sum, not reduced to 12 bits and never wrapped, of `NNN` and V0, or the register its top nibble names under the quirk
(40_flow.md R89, decision D5). -/
def Obligations.OffsetJumpAddsTheRegister : Prop :=
  ∀ nnn : Addr12, EncodedAsSpelled (.jpOffset nnn) ∧
    ∀ s : State, ∃ t, exec (.jpOffset nnn) s = .next t ∧ t.pc.toNat = offsetTarget s nnn ∧ KeepsAllBut [.pc] s t

/-! Index register and memory. -/

/-- ANNN and FX29: encoding, the new `I`, frame (rules R120, R122). -/
def Obligations.IndexLoadsAddressOrGlyph : Prop :=
  (∀ nnn : Addr12, EncodedAsSpelled (.ldIndex nnn) ∧
    ∀ s : State, ∃ t, exec (.ldIndex nnn) s = .next t ∧ t.index.toNat = nnn.toNat ∧ t.pc = s.pc + 2 ∧ KeepsAllBut [.index, .pc] s t) ∧
  (∀ x : Nibble, EncodedAsSpelled (.ldFont x) ∧
    ∀ s : State, ∃ t, exec (.ldFont x) s = .next t ∧ t.index.toNat = 0x050 + 5 * ((s.reg x).toNat % 16) ∧ t.pc = s.pc + 2 ∧
      KeepsAllBut [.index, .pc] s t)

/-- FX1E: the sum modulo 65536 under every quirk setting; VF becomes 1 exactly under the quirk on overflow and is otherwise kept, also with
`X = 15` (42_index_memory.md R121, decision D11, log entry 9). -/
def Obligations.AddToIndexWrapsAndFlags : Prop :=
  ∀ x : Nibble, EncodedAsSpelled (.addIndex x) ∧
    ∀ s : State, ∃ t, exec (.addIndex x) s = .next t ∧ t.index.toNat = (s.index.toNat + (s.reg x).toNat) % 65536 ∧
      (t.reg 15).toNat = (if s.quirks.indexOverflowFlag = true ∧ 0xFFFF < s.index.toNat + (s.reg x).toNat then 1 else (s.reg 15).toNat) ∧
      KeepsRegsBut [15] s t ∧ t.pc = s.pc + 2 ∧ KeepsAllBut [.index, .regs, .pc] s t

/-- FX33: the three digits at `I`, `I+1`, `I+2`, everything else kept; beyond 0xFFF the error and nothing else (42_index_memory.md R123; that the
whole range is checked first and nothing is written is 20_memory.md R46, decision D7, log entry 16). The premise on memory is the canonical
form, which every step keeps. -/
def Obligations.BcdStoresThreeDecimalDigits : Prop :=
  ∀ x : Nibble, EncodedAsSpelled (.ldBcd x) ∧
    ∀ s : State, Memory.wf s.mem = true →
      (s.index.toNat + 2 ≤ 0xFFF → ∃ t, exec (.ldBcd x) s = .next t ∧
        (t.byte s.index.toNat).toNat = (s.reg x).toNat / 100 ∧
        (t.byte (s.index.toNat + 1)).toNat = (s.reg x).toNat / 10 % 10 ∧
        (t.byte (s.index.toNat + 2)).toNat = (s.reg x).toNat % 10 ∧
        KeepsBytesOutside s.index.toNat 3 s t ∧ t.pc = s.pc + 2 ∧ KeepsAllBut [.mem, .pc] s t) ∧
      (0xFFF < s.index.toNat + 2 → FailsWith .memoryOverrun s (exec (.ldBcd x) s))

/-- FX55: V0..VX at `I`..`I+X`, `I` under the quirk, everything else kept; beyond 0xFFF the error and nothing else (42_index_memory.md R124,
decision D7). -/
def Obligations.BlockStoreWritesTheRegisters : Prop :=
  ∀ x : Nibble, EncodedAsSpelled (.storeRegs x) ∧
    ∀ s : State, Memory.wf s.mem = true →
      (s.index.toNat + x.val ≤ 0xFFF → ∃ t, exec (.storeRegs x) s = .next t ∧
        (∀ k : Nibble, k ≤ x → t.byte (s.index.toNat + k.val) = s.reg k) ∧
        KeepsBytesOutside s.index.toNat (x.val + 1) s t ∧
        t.index.toNat = (if s.quirks.indexAutoincrement then s.index.toNat + x.val + 1 else s.index.toNat) ∧
        t.pc = s.pc + 2 ∧ KeepsAllBut [.mem, .index, .pc] s t) ∧
      (0xFFF < s.index.toNat + x.val → FailsWith .memoryOverrun s (exec (.storeRegs x) s))

/-- FX65: V0..VX from `I`..`I+X`, the registers above kept, `I` under the quirk, everything else kept; beyond 0xFFF the error and nothing
else (42_index_memory.md R125, decision D7). -/
def Obligations.BlockLoadReadsTheRegisters : Prop :=
  ∀ x : Nibble, EncodedAsSpelled (.loadRegs x) ∧
    ∀ s : State,
      (s.index.toNat + x.val ≤ 0xFFF → ∃ t, exec (.loadRegs x) s = .next t ∧
        (∀ k : Nibble, k ≤ x → t.reg k = s.byte (s.index.toNat + k.val)) ∧
        (∀ k : Nibble, x < k → t.reg k = s.reg k) ∧
        t.index.toNat = (if s.quirks.indexAutoincrement then s.index.toNat + x.val + 1 else s.index.toNat) ∧
        t.pc = s.pc + 2 ∧ KeepsAllBut [.regs, .index, .pc] s t) ∧
      (0xFFF < s.index.toNat + x.val → FailsWith .memoryOverrun s (exec (.loadRegs x) s))

/-- A block stored by FX55 is what FX65 loads back from the same `I`, whatever the registers hold in between. -/
def Obligations.BlockLoadUndoesBlockStore : Prop :=
  ∀ (x : Nibble) (s t : State) (v : Vector Byte 16), Memory.wf s.mem = true → s.index.toNat + x.val ≤ 0xFFF →
    exec (.storeRegs x) s = .next t →
    ∃ u, exec (.loadRegs x) ((t.setIndex s.index).setRegs v) = .next u ∧
      ∀ k : Nibble, u.reg k = if k ≤ x then s.reg k else v[k.val]

/-- A word stored in memory is what the next fetch of it sees, with no fence (20_memory.md R44, R52). -/
def Obligations.FetchSeesTheStoredWord : Prop :=
  ∀ (s : State) (a : Nat) (w : Word), Memory.wf s.mem = true → a + 1 < 4096 →
    fetch a (s.setMem (Memory.writeBytes s.mem a (wordBytes w))) = .ok w

/-- The word placed for a step is the instruction that step runs (the model's interface to the opcode table, log entry 14). -/
def Obligations.PlacedWordIsTheNextInstruction : Prop :=
  ∀ (s : State) (w : Nat) (i : Instr), Memory.wf s.mem = true → decodeTableWord 16 w = some i →
    ∃ u, step (s.withFetchWord 16 w) = exec i u ∧ (s.pc.toNat + 1 < 4096 → u.pc = s.pc) ∧
      KeepsBytesOutside u.pc.toNat 2 s u ∧ KeepsAllBut [.mem, .pc, .err, .romOpen, .pending] s u

/-- The check of a whole range before its first access agrees with checking each byte's access (20_memory.md R46, decision D7). -/
def Obligations.RangeCheckAgreesWithByteChecks : Prop :=
  ∀ (first count : Nat) (s : State) (v : Byte),
    (rangeError first count = none ↔ ∀ k, k < count → memRead (first + k) s = .ok (s.byte (first + k))) ∧
    (rangeError first count = none ↔
      ∀ k, k < count → memWrite (first + k) v s = .ok (s.setMem (Memory.write s.mem (first + k) v)))

/-! Display. -/

/-- 00E0: encoding, every cell off, frame; VF is not written (rule R135). -/
def Obligations.ClearTurnsEveryCellOff : Prop :=
  EncodedAsSpelled .cls ∧
  ∀ s : State, ∃ t, exec .cls s = .next t ∧ (∀ x y, x < 64 → y < 32 → t.disp.get x y = false) ∧ t.pc = s.pc + 2 ∧
    KeepsAllBut [.screen, .pc] s t

/-- DXYN: the display is XORed with the clipped sprite, VF is 1 exactly when a cell that was on is covered, everything else is kept; a
sprite that does not lie in memory is the error and nothing else (43_display.md R136, R138, R139; decisions D7, D12). -/
def Obligations.DrawXorsTheClippedSprite : Prop :=
  ∀ vx vy n : Nibble, EncodedAsSpelled (.drw vx vy n) ∧
    ∀ s : State,
      (spriteInMemory s n → ∃ t, exec (.drw vx vy n) s = .next t ∧
        (∀ x y, x < 64 → y < 32 → t.disp.get x y = (s.disp.get x y ^^ covered s vx vy n x y)) ∧
        ((∃ x y, x < 64 ∧ y < 32 ∧ s.disp.get x y = true ∧ covered s vx vy n x y = true) → t.reg 15 = 1) ∧
        ((∀ x y, x < 64 → y < 32 → s.disp.get x y = true → covered s vx vy n x y = false) → t.reg 15 = 0) ∧
        KeepsRegsBut [15] s t ∧ t.pc = s.pc + 2 ∧ KeepsAllBut [.screen, .regs, .pc] s t) ∧
      (¬spriteInMemory s n → FailsWith .memoryOverrun s (exec (.drw vx vy n) s))

/-- The same sprite drawn twice with the same `V[X]`, `V[Y]`, `I` and memory restores the display. The second draw collides exactly when the
clipped sprite covers a cell that was off before the first: this follows from 43_display.md R136. The derived law 2 of R139 says "iff
the clipped mask is non-empty", which R136 bears out only where the first draw did not collide (the last
clause); that R136 is followed is the model's choice (log entry 22). With `X` or
`Y` = 15 the law asks, as for any register, that the first draw's flag left the coordinate as it was; where it did not, each draw by itself is
Obligations.DrawXorsTheClippedSprite. -/
def Obligations.DrawingTwiceRestoresTheDisplay : Prop :=
  ∀ (vx vy n : Nibble) (s t : State), spriteInMemory s n → exec (.drw vx vy n) s = .next t →
    t.reg vx = s.reg vx → t.reg vy = s.reg vy →
    ∃ u, exec (.drw vx vy n) t = .next u ∧ (∀ x y, x < 64 → y < 32 → u.disp.get x y = s.disp.get x y) ∧
      (u.reg 15 = 1 ↔ ∃ x y, x < 64 ∧ y < 32 ∧ s.disp.get x y = false ∧ covered s vx vy n x y = true) ∧
      (t.reg 15 = 0 → (u.reg 15 = 1 ↔ ∃ x y, x < 64 ∧ y < 32 ∧ covered s vx vy n x y = true))

/-- 00E0 followed by DXYN never collides (43_display.md R139 law 4). -/
def Obligations.DrawAfterClearNeverCollides : Prop :=
  ∀ (vx vy n : Nibble) (s t : State), spriteInMemory s n → exec .cls s = .next t →
    ∃ u, exec (.drw vx vy n) t = .next u ∧ u.reg 15 = 0

/-! Keypad and timers. -/

/-- FX07, FX15, FX18: encoding, value, frame (rules R153 and R154; of R155 everything but that no instruction reads `ST` back). -/
def Obligations.TimerInstructionsMoveTheTimers : Prop :=
  ∀ x : Nibble,
    (EncodedAsSpelled (.ldFromDt x) ∧ ∀ s : State, ∃ t, exec (.ldFromDt x) s = .next t ∧ t.reg x = s.dt ∧ KeepsRegsBut [x] s t ∧
      t.pc = s.pc + 2 ∧ KeepsAllBut [.regs, .pc] s t) ∧
    (EncodedAsSpelled (.ldDt x) ∧ ∀ s : State, ∃ t, exec (.ldDt x) s = .next t ∧ t.dt = s.reg x ∧ t.pc = s.pc + 2 ∧
      KeepsAllBut [.dt, .pc] s t) ∧
    (EncodedAsSpelled (.ldSt x) ∧ ∀ s : State, ∃ t, exec (.ldSt x) s = .next t ∧ t.st = s.reg x ∧ t.pc = s.pc + 2 ∧
      KeepsAllBut [.st, .pc] s t)

/-- EX9E and EXA1: skip on the key's bit of the snapshot; a value that is no hexkey is the error and nothing else (44_keypad_timers.md R150, R151,
decision D10, log entry 11). -/
def Obligations.KeySkipsTestTheSnapshot : Prop :=
  ∀ x : Nibble, EncodedAsSpelled (.skp x) ∧ EncodedAsSpelled (.sknp x) ∧
    ∀ s : State,
      ((s.reg x).toNat ≤ 15 →
        (∃ t, exec (.skp x) s = .next t ∧ t.pc = (if s.keys.getLsbD (s.reg x).toNat then s.pc + 4 else s.pc + 2) ∧ KeepsAllBut [.pc] s t) ∧
        (∃ t, exec (.sknp x) s = .next t ∧ t.pc = (if s.keys.getLsbD (s.reg x).toNat then s.pc + 2 else s.pc + 4) ∧ KeepsAllBut [.pc] s t)) ∧
      (15 < (s.reg x).toNat → FailsWith .keyIndexRange s (exec (.skp x) s) ∧ FailsWith .keyIndexRange s (exec (.sknp x) s))

/-- FX0A: `KPREV` takes the snapshot; with no key newly down `PC` stays at the instruction; else the lowest new key is loaded and `PC` goes on
(44_keypad_timers.md R152, decision D9, log entry 10). -/
def Obligations.KeyWaitTakesTheLowestNewKey : Prop :=
  ∀ x : Nibble, EncodedAsSpelled (.ldKey x) ∧
    ∀ s : State,
      ((∀ k, k < 16 → s.keys.getLsbD k = true → s.kprev.getLsbD k = true) →
        ∃ t, exec (.ldKey x) s = .next t ∧ t.kprev = s.keys ∧ KeepsAllBut [.kprev] s t) ∧
      (∀ k, k < 16 → s.keys.getLsbD k = true → s.kprev.getLsbD k = false →
        (∀ j, j < k → s.keys.getLsbD j = true → s.kprev.getLsbD j = true) →
        ∃ t, exec (.ldKey x) s = .next t ∧ (t.reg x).toNat = k ∧ t.kprev = s.keys ∧ t.pc = s.pc + 2 ∧ KeepsRegsBut [x] s t ∧
          KeepsAllBut [.regs, .kprev, .pc] s t)

/-- `Tick`: both timers one down, floored at 0, each on its own; nothing while `ERR ≠ 0`; and the separation: of the instructions only FX15 and
FX18 set a timer, of the other events only `Tick` counts one down and only `Reset` clears one (rule R179; `romOpen` and `pending` are
the model's own). -/
def Obligations.TickCountsBothTimersDown : Prop :=
  (∀ (s : State) (rest : List Event), s.err = none → s.pending = .tick :: rest →
    ∃ t, step s = .next t ∧ t.dt.toNat = s.dt.toNat - 1 ∧ t.st.toNat = s.st.toNat - 1 ∧ t.pending = rest ∧
      KeepsAllBut [.dt, .st, .romOpen, .pending] s t) ∧
  (∀ s : State, s.err ≠ none → tick s = s) ∧
  (∀ (i : Instr) (s t : State), exec i s = .next t →
    (t.dt ≠ s.dt → ∃ x, i = .ldDt x) ∧ (t.st ≠ s.st → ∃ x, i = .ldSt x)) ∧
  (∀ (e : Event) (s t : State), perform e s = .next t → t.dt ≠ s.dt ∨ t.st ≠ s.st → e = .tick ∨ e = .step ∨ ∃ q, e = .reset q)

/-- A timer set to `v` reads as `max(v − n, 0)` after `n` ticks with no write between (60_exceptions.md R180). -/
def Obligations.TimersReachZeroAndStay : Prop :=
  ∀ (n : Nat) (s : State), s.err = none → (tick^[n] s).dt.toNat = s.dt.toNat - n ∧ (tick^[n] s).st.toNat = s.st.toNat - n

/-- `KeypadUpdate(k)`: any 16-bit snapshot; `KPREV` is not touched; nothing while `ERR ≠ 0` (rule R181; `romOpen` and `pending` are the
model's own). -/
def Obligations.KeypadUpdateReplacesTheSnapshot : Prop :=
  (∀ (s : State) (k : Word) (rest : List Event), s.err = none → s.pending = .keypadUpdate k :: rest →
    ∃ t, step s = .next t ∧ t.keys = k ∧ t.pending = rest ∧ KeepsAllBut [.keys, .romOpen, .pending] s t) ∧
  (∀ (s : State) (k : Word), s.err ≠ none → keypadUpdate k s = s)

/-- The keypad refresh and the timer decrement commute, so their order within a frame does not matter (90_conflicts.md C1). -/
def Obligations.KeypadUpdateAndTickCommute : Prop :=
  ∀ (s : State) (k : Word), tick (keypadUpdate k s) = keypadUpdate k (tick s)

/-! Reset and load. -/

/-- `Reset(q)` from any state: every element at its reset value (10_state.md R28, R190: all of them but `PC`, the font's place and the quirks are
decisions D3, D9, D17; log entries 4 and 6). -/
def Obligations.ResetSetsEveryElement : Prop :=
  ∀ (s : State) (q : Quirks) (rest : List Event), s.pending = .reset q :: rest →
    ∃ t, step s = .next t ∧ t.pc = 0x0200 ∧ t.quirks = q ∧ (∀ j, t.reg j = 0) ∧ t.index = 0 ∧ t.sp = 0 ∧ t.dt = 0 ∧ t.st = 0 ∧
      (∀ j, j < 80 → t.byte (0x050 + j) = font.getD j 0) ∧ (∀ a, (a < 0x050 ∨ 0x0A0 ≤ a) → t.byte a = 0x00) ∧
      (∀ x y, t.disp.get x y = false) ∧ t.keys = 0 ∧ t.kprev = 0 ∧ t.err = none ∧ t.pending = rest

/-- `LoadROM(bytes)` just after `Reset`: the bytes at 0x200, nothing else; too long a ROM is the error and nothing else; at any other time it is
refused (70_reset_and_hazards.md R192, decision D21, log entry 13). -/
def Obligations.LoadRomPlacesTheBytes : Prop :=
  ∀ (s : State) (bytes : List Byte), s.err = none →
    (s.romOpen = true → Memory.wf s.mem = true → bytes.length ≤ 3584 →
      ∃ t, loadRom bytes s = .next t ∧ (∀ j (h : j < bytes.length), t.byte (0x200 + j) = bytes[j]) ∧
        KeepsBytesOutside 0x200 bytes.length s t ∧ t.romOpen = false ∧ KeepsAllBut [.mem, .romOpen] s t) ∧
    (s.romOpen = true → 3584 < bytes.length → FailsWith .romTooLarge s (loadRom bytes s)) ∧
    (s.romOpen = false → loadRom bytes s = .refused .loadRomNotAfterReset)

/-- A quiescent machine stays as it is under every cycle (70_reset_and_hazards.md R200, decision D20). -/
def Obligations.QuiescentMachineStays : Prop :=
  ∀ s : State, s.quiescent = true → s.pending = [] → step s = .next (s.setRomOpen false) ∧ (s.setRomOpen false).quiescent = true

/-- What an instruction does not read cannot change what it does: memory but for DXYN, FX33, FX55, FX65; the display but for 00E0, DXYN; the random input
but for CXNN; `ST` but for FX18; the host's side for none (20_memory.md R49, 43_display.md R139 law 5, 10_state.md R17, R26). -/
def Obligations.InstructionsIgnoreWhatTheyDoNotRead : Prop :=
  ∀ (i : Instr) (s t : State), exec i s = .next t →
    ((∀ x y n, i ≠ .drw x y n) → (∀ x, i ≠ .ldBcd x ∧ i ≠ .storeRegs x ∧ i ≠ .loadRegs x) →
      ∀ m, exec i (s.setMem m) = .next (t.setMem m)) ∧
    (i ≠ .cls → (∀ x y n, i ≠ .drw x y n) → ∀ d, exec i (s.setDisp d) = .next (t.setDisp d)) ∧
    ((∀ x nn, i ≠ .rnd x nn) → ∀ l n, exec i (s.setRandom l n) = .next (t.setRandom l n)) ∧
    ((∀ x, i ≠ .ldSt x) → ∀ b, exec i (s.setSt b) = .next (t.setSt b)) ∧
    (∀ l b, exec i ((s.setPending l).setRomOpen b) = .next ((t.setPending l).setRomOpen b))
end

