-- ==== Sys2Proof/Laws/Decode.lean ====
section
/-! SUPPORT. The six fields of an encoded word, one lemma per encoding form, and the value of a field as a number. -/

namespace Sys2Proof

theorem nibbleAt_val (w : Word) (lo : Nat) : (nibbleAt w lo).val = w.toNat / 2 ^ lo % 16 := by
  simp [nibbleAt, Nat.shiftRight_eq_div_pow]

theorem fieldsOf_nn (w : Word) : (fieldsOf w).nn.toNat = w.toNat % 256 := by
  simp [fieldsOf, BitVec.extractLsb'_toNat]

theorem fieldsOf_nnn (w : Word) : (fieldsOf w).nnn.toNat = w.toNat % 4096 := by
  simp [fieldsOf, BitVec.extractLsb'_toNat]

theorem wordXYN_toNat (op x y n : Nibble) :
    (wordXYN op x y n).toNat = op.val * 4096 + x.val * 256 + y.val * 16 + n.val := by
  have := op.isLt; have := x.isLt; have := y.isLt; have := n.isLt
  simp only [wordXYN, BitVec.toNat_ofNat]
  omega

theorem wordXI_toNat (op x : Nibble) (nn : Byte) : (wordXI op x nn).toNat = op.val * 4096 + x.val * 256 + nn.toNat := by
  have := op.isLt; have := x.isLt; have := nn.isLt
  simp only [wordXI, BitVec.toNat_ofNat]
  omega

theorem wordA_toNat (op : Nibble) (nnn : Addr12) : (wordA op nnn).toNat = op.val * 4096 + nnn.toNat := by
  have := op.isLt; have := nnn.isLt
  simp only [wordA, BitVec.toNat_ofNat]
  omega

theorem fieldsOf_wordXYN (op x y n : Nibble) :
    (fieldsOf (wordXYN op x y n)).op = op ∧ (fieldsOf (wordXYN op x y n)).x = x ∧
    (fieldsOf (wordXYN op x y n)).y = y ∧ (fieldsOf (wordXYN op x y n)).n = n := by
  have := op.isLt; have := x.isLt; have := y.isLt; have := n.isLt
  refine ⟨?_, ?_, ?_, ?_⟩ <;> apply Fin.ext <;> simp only [fieldsOf, nibbleAt_val, wordXYN_toNat] <;> omega

theorem fieldsOf_wordXI (op x : Nibble) (nn : Byte) :
    (fieldsOf (wordXI op x nn)).op = op ∧ (fieldsOf (wordXI op x nn)).x = x ∧ (fieldsOf (wordXI op x nn)).nn = nn := by
  have := op.isLt; have := x.isLt; have := nn.isLt
  refine ⟨?_, ?_, ?_⟩
  · apply Fin.ext; simp only [fieldsOf, nibbleAt_val, wordXI_toNat]; omega
  · apply Fin.ext; simp only [fieldsOf, nibbleAt_val, wordXI_toNat]; omega
  · apply BitVec.eq_of_toNat_eq; rw [fieldsOf_nn, wordXI_toNat]; omega

theorem fieldsOf_wordA (op : Nibble) (nnn : Addr12) :
    (fieldsOf (wordA op nnn)).op = op ∧ (fieldsOf (wordA op nnn)).nnn = nnn := by
  have := op.isLt; have := nnn.isLt
  refine ⟨?_, ?_⟩
  · apply Fin.ext; simp only [fieldsOf, nibbleAt_val, wordA_toNat]; omega
  · apply BitVec.eq_of_toNat_eq; rw [fieldsOf_nnn, wordA_toNat]; omega

/-- A word written high byte first and composed again is itself (rules R44, R63). -/
theorem compose_bytes (w : Word) : compose (highByte w) (lowByte w) = w := by
  apply BitVec.eq_of_toNat_eq
  have := w.isLt
  simp only [compose, highByte, lowByte, BitVec.toNat_append, BitVec.extractLsb'_toNat, Nat.shiftRight_eq_div_pow]
  rw [← Nat.shiftLeft_add_eq_or_of_lt (by omega), Nat.shiftLeft_eq]
  omega

end Sys2Proof
end

