-- ==== Sys2Proof/Laws/Display.lean ====
section
/-! SUPPORT. The laws of the display primitives (rule R137), and what a second draw of a mask meets (rule R139). -/

namespace Sys2Proof.Machine.Display

theorem get_outside (d : Display) (x y : Nat) (h : ¬(y < 32 ∧ x < 64)) : d.get x y = false := by
  simp only [get, dif_neg h]

/-- `DispGet` after `DispSet`: the cell set, or the cell as it was. -/
theorem get_set (d : Display) (x y x' y' : Nat) (b : Bool) (hx : x < 64) (hy : y < 32) :
    (d.set x y b).get x' y' = if x' = x ∧ y' = y then b else d.get x' y' := by
  have hin : y < 32 ∧ x < 64 := ⟨hy, hx⟩
  by_cases h : y' < 32 ∧ x' < 64
  · simp only [get, set, dif_pos hin, dif_pos h, Vector.getElem_set]
    by_cases hyy : y = y'
    · subst hyy
      by_cases hxx : x = x' <;> simp [hxx, eq_comm]
    · simp [hyy, Ne.symm hyy]
  · rw [get_outside _ x' y' h, get_outside _ x' y' h]
    have : ¬(x' = x ∧ y' = y) := by omega
    simp [this]

/-- Every cell of the cleared display is off. -/
@[simp] theorem get_clear (x y : Nat) : Display.clear.get x y = false := by
  simp [get, clear]

/-- What laws 1 and 3 of rule R139 give for a second draw, whatever the display `d` and the clipped mask `m`: the cells `d XOR m` meet the mask exactly
when the mask covers a cell that was off in `d` (log entry 22). -/
theorem xor_meets_mask_iff (d m : Nat → Nat → Bool) :
    (∃ x y, (d x y ^^ m x y) = true ∧ m x y = true) ↔ ∃ x y, d x y = false ∧ m x y = true := by
  refine exists_congr fun x => exists_congr fun y => and_congr_left fun hm => ?_
  simp [hm]

/-- So over cells that are all lit the second draw meets nothing, however large the mask, and the second half of law 2 of rule R139 contradicts laws 1
and 3 of the same rule (log entry 22). -/
theorem not_xor_meets_mask_of_lit (d m : Nat → Nat → Bool) (h : ∀ x y, m x y = true → d x y = true) :
    ¬∃ x y, (d x y ^^ m x y) = true ∧ m x y = true := by
  rw [xor_meets_mask_iff]
  rintro ⟨x, y, hd, hm⟩
  simp [h x y hm] at hd

end Sys2Proof.Machine.Display
end

