-- ==== Sys2Proof/Laws/State.lean ====
section
/-! SUPPORT. One lemma per field per update of State, each true by rfl, so that no proof unfolds a record update; then what `V[j]` and `MEM[a]` read
after an update. -/

namespace Sys2Proof.Machine.State

@[simp] theorem setReg_v (s : State) (x : Nibble) (b : Byte) : (s.setReg x b).v = Vector.set s.v x.val b x.isLt := rfl
@[simp] theorem setReg_index (s : State) (x : Nibble) (b : Byte) : (s.setReg x b).index = s.index := rfl
@[simp] theorem setReg_pc (s : State) (x : Nibble) (b : Byte) : (s.setReg x b).pc = s.pc := rfl
@[simp] theorem setReg_stack (s : State) (x : Nibble) (b : Byte) : (s.setReg x b).stack = s.stack := rfl
@[simp] theorem setReg_dt (s : State) (x : Nibble) (b : Byte) : (s.setReg x b).dt = s.dt := rfl
@[simp] theorem setReg_st (s : State) (x : Nibble) (b : Byte) : (s.setReg x b).st = s.st := rfl
@[simp] theorem setReg_mem (s : State) (x : Nibble) (b : Byte) : (s.setReg x b).mem = s.mem := rfl
@[simp] theorem setReg_disp (s : State) (x : Nibble) (b : Byte) : (s.setReg x b).disp = s.disp := rfl
@[simp] theorem setReg_keys (s : State) (x : Nibble) (b : Byte) : (s.setReg x b).keys = s.keys := rfl
@[simp] theorem setReg_kprev (s : State) (x : Nibble) (b : Byte) : (s.setReg x b).kprev = s.kprev := rfl
@[simp] theorem setReg_quirks (s : State) (x : Nibble) (b : Byte) : (s.setReg x b).quirks = s.quirks := rfl
@[simp] theorem setReg_err (s : State) (x : Nibble) (b : Byte) : (s.setReg x b).err = s.err := rfl
@[simp] theorem setReg_romOpen (s : State) (x : Nibble) (b : Byte) : (s.setReg x b).romOpen = s.romOpen := rfl
@[simp] theorem setReg_rndIn (s : State) (x : Nibble) (b : Byte) : (s.setReg x b).rndIn = s.rndIn := rfl
@[simp] theorem setReg_draws (s : State) (x : Nibble) (b : Byte) : (s.setReg x b).draws = s.draws := rfl
@[simp] theorem setReg_pending (s : State) (x : Nibble) (b : Byte) : (s.setReg x b).pending = s.pending := rfl

@[simp] theorem setRegs_v (s : State) (v : Vector Byte 16) : (s.setRegs v).v = v := rfl
@[simp] theorem setRegs_index (s : State) (v : Vector Byte 16) : (s.setRegs v).index = s.index := rfl
@[simp] theorem setRegs_pc (s : State) (v : Vector Byte 16) : (s.setRegs v).pc = s.pc := rfl
@[simp] theorem setRegs_stack (s : State) (v : Vector Byte 16) : (s.setRegs v).stack = s.stack := rfl
@[simp] theorem setRegs_dt (s : State) (v : Vector Byte 16) : (s.setRegs v).dt = s.dt := rfl
@[simp] theorem setRegs_st (s : State) (v : Vector Byte 16) : (s.setRegs v).st = s.st := rfl
@[simp] theorem setRegs_mem (s : State) (v : Vector Byte 16) : (s.setRegs v).mem = s.mem := rfl
@[simp] theorem setRegs_disp (s : State) (v : Vector Byte 16) : (s.setRegs v).disp = s.disp := rfl
@[simp] theorem setRegs_keys (s : State) (v : Vector Byte 16) : (s.setRegs v).keys = s.keys := rfl
@[simp] theorem setRegs_kprev (s : State) (v : Vector Byte 16) : (s.setRegs v).kprev = s.kprev := rfl
@[simp] theorem setRegs_quirks (s : State) (v : Vector Byte 16) : (s.setRegs v).quirks = s.quirks := rfl
@[simp] theorem setRegs_err (s : State) (v : Vector Byte 16) : (s.setRegs v).err = s.err := rfl
@[simp] theorem setRegs_romOpen (s : State) (v : Vector Byte 16) : (s.setRegs v).romOpen = s.romOpen := rfl
@[simp] theorem setRegs_rndIn (s : State) (v : Vector Byte 16) : (s.setRegs v).rndIn = s.rndIn := rfl
@[simp] theorem setRegs_draws (s : State) (v : Vector Byte 16) : (s.setRegs v).draws = s.draws := rfl
@[simp] theorem setRegs_pending (s : State) (v : Vector Byte 16) : (s.setRegs v).pending = s.pending := rfl

@[simp] theorem setIndex_v (s : State) (w : Word) : (s.setIndex w).v = s.v := rfl
@[simp] theorem setIndex_index (s : State) (w : Word) : (s.setIndex w).index = w := rfl
@[simp] theorem setIndex_pc (s : State) (w : Word) : (s.setIndex w).pc = s.pc := rfl
@[simp] theorem setIndex_stack (s : State) (w : Word) : (s.setIndex w).stack = s.stack := rfl
@[simp] theorem setIndex_dt (s : State) (w : Word) : (s.setIndex w).dt = s.dt := rfl
@[simp] theorem setIndex_st (s : State) (w : Word) : (s.setIndex w).st = s.st := rfl
@[simp] theorem setIndex_mem (s : State) (w : Word) : (s.setIndex w).mem = s.mem := rfl
@[simp] theorem setIndex_disp (s : State) (w : Word) : (s.setIndex w).disp = s.disp := rfl
@[simp] theorem setIndex_keys (s : State) (w : Word) : (s.setIndex w).keys = s.keys := rfl
@[simp] theorem setIndex_kprev (s : State) (w : Word) : (s.setIndex w).kprev = s.kprev := rfl
@[simp] theorem setIndex_quirks (s : State) (w : Word) : (s.setIndex w).quirks = s.quirks := rfl
@[simp] theorem setIndex_err (s : State) (w : Word) : (s.setIndex w).err = s.err := rfl
@[simp] theorem setIndex_romOpen (s : State) (w : Word) : (s.setIndex w).romOpen = s.romOpen := rfl
@[simp] theorem setIndex_rndIn (s : State) (w : Word) : (s.setIndex w).rndIn = s.rndIn := rfl
@[simp] theorem setIndex_draws (s : State) (w : Word) : (s.setIndex w).draws = s.draws := rfl
@[simp] theorem setIndex_pending (s : State) (w : Word) : (s.setIndex w).pending = s.pending := rfl

@[simp] theorem setPc_v (s : State) (w : Word) : (s.setPc w).v = s.v := rfl
@[simp] theorem setPc_index (s : State) (w : Word) : (s.setPc w).index = s.index := rfl
@[simp] theorem setPc_pc (s : State) (w : Word) : (s.setPc w).pc = w := rfl
@[simp] theorem setPc_stack (s : State) (w : Word) : (s.setPc w).stack = s.stack := rfl
@[simp] theorem setPc_dt (s : State) (w : Word) : (s.setPc w).dt = s.dt := rfl
@[simp] theorem setPc_st (s : State) (w : Word) : (s.setPc w).st = s.st := rfl
@[simp] theorem setPc_mem (s : State) (w : Word) : (s.setPc w).mem = s.mem := rfl
@[simp] theorem setPc_disp (s : State) (w : Word) : (s.setPc w).disp = s.disp := rfl
@[simp] theorem setPc_keys (s : State) (w : Word) : (s.setPc w).keys = s.keys := rfl
@[simp] theorem setPc_kprev (s : State) (w : Word) : (s.setPc w).kprev = s.kprev := rfl
@[simp] theorem setPc_quirks (s : State) (w : Word) : (s.setPc w).quirks = s.quirks := rfl
@[simp] theorem setPc_err (s : State) (w : Word) : (s.setPc w).err = s.err := rfl
@[simp] theorem setPc_romOpen (s : State) (w : Word) : (s.setPc w).romOpen = s.romOpen := rfl
@[simp] theorem setPc_rndIn (s : State) (w : Word) : (s.setPc w).rndIn = s.rndIn := rfl
@[simp] theorem setPc_draws (s : State) (w : Word) : (s.setPc w).draws = s.draws := rfl
@[simp] theorem setPc_pending (s : State) (w : Word) : (s.setPc w).pending = s.pending := rfl

@[simp] theorem setStack_v (s : State) (l : List Word) : (s.setStack l).v = s.v := rfl
@[simp] theorem setStack_index (s : State) (l : List Word) : (s.setStack l).index = s.index := rfl
@[simp] theorem setStack_pc (s : State) (l : List Word) : (s.setStack l).pc = s.pc := rfl
@[simp] theorem setStack_stack (s : State) (l : List Word) : (s.setStack l).stack = l := rfl
@[simp] theorem setStack_dt (s : State) (l : List Word) : (s.setStack l).dt = s.dt := rfl
@[simp] theorem setStack_st (s : State) (l : List Word) : (s.setStack l).st = s.st := rfl
@[simp] theorem setStack_mem (s : State) (l : List Word) : (s.setStack l).mem = s.mem := rfl
@[simp] theorem setStack_disp (s : State) (l : List Word) : (s.setStack l).disp = s.disp := rfl
@[simp] theorem setStack_keys (s : State) (l : List Word) : (s.setStack l).keys = s.keys := rfl
@[simp] theorem setStack_kprev (s : State) (l : List Word) : (s.setStack l).kprev = s.kprev := rfl
@[simp] theorem setStack_quirks (s : State) (l : List Word) : (s.setStack l).quirks = s.quirks := rfl
@[simp] theorem setStack_err (s : State) (l : List Word) : (s.setStack l).err = s.err := rfl
@[simp] theorem setStack_romOpen (s : State) (l : List Word) : (s.setStack l).romOpen = s.romOpen := rfl
@[simp] theorem setStack_rndIn (s : State) (l : List Word) : (s.setStack l).rndIn = s.rndIn := rfl
@[simp] theorem setStack_draws (s : State) (l : List Word) : (s.setStack l).draws = s.draws := rfl
@[simp] theorem setStack_pending (s : State) (l : List Word) : (s.setStack l).pending = s.pending := rfl

@[simp] theorem setDt_v (s : State) (b : Byte) : (s.setDt b).v = s.v := rfl
@[simp] theorem setDt_index (s : State) (b : Byte) : (s.setDt b).index = s.index := rfl
@[simp] theorem setDt_pc (s : State) (b : Byte) : (s.setDt b).pc = s.pc := rfl
@[simp] theorem setDt_stack (s : State) (b : Byte) : (s.setDt b).stack = s.stack := rfl
@[simp] theorem setDt_dt (s : State) (b : Byte) : (s.setDt b).dt = b := rfl
@[simp] theorem setDt_st (s : State) (b : Byte) : (s.setDt b).st = s.st := rfl
@[simp] theorem setDt_mem (s : State) (b : Byte) : (s.setDt b).mem = s.mem := rfl
@[simp] theorem setDt_disp (s : State) (b : Byte) : (s.setDt b).disp = s.disp := rfl
@[simp] theorem setDt_keys (s : State) (b : Byte) : (s.setDt b).keys = s.keys := rfl
@[simp] theorem setDt_kprev (s : State) (b : Byte) : (s.setDt b).kprev = s.kprev := rfl
@[simp] theorem setDt_quirks (s : State) (b : Byte) : (s.setDt b).quirks = s.quirks := rfl
@[simp] theorem setDt_err (s : State) (b : Byte) : (s.setDt b).err = s.err := rfl
@[simp] theorem setDt_romOpen (s : State) (b : Byte) : (s.setDt b).romOpen = s.romOpen := rfl
@[simp] theorem setDt_rndIn (s : State) (b : Byte) : (s.setDt b).rndIn = s.rndIn := rfl
@[simp] theorem setDt_draws (s : State) (b : Byte) : (s.setDt b).draws = s.draws := rfl
@[simp] theorem setDt_pending (s : State) (b : Byte) : (s.setDt b).pending = s.pending := rfl

@[simp] theorem setSt_v (s : State) (b : Byte) : (s.setSt b).v = s.v := rfl
@[simp] theorem setSt_index (s : State) (b : Byte) : (s.setSt b).index = s.index := rfl
@[simp] theorem setSt_pc (s : State) (b : Byte) : (s.setSt b).pc = s.pc := rfl
@[simp] theorem setSt_stack (s : State) (b : Byte) : (s.setSt b).stack = s.stack := rfl
@[simp] theorem setSt_dt (s : State) (b : Byte) : (s.setSt b).dt = s.dt := rfl
@[simp] theorem setSt_st (s : State) (b : Byte) : (s.setSt b).st = b := rfl
@[simp] theorem setSt_mem (s : State) (b : Byte) : (s.setSt b).mem = s.mem := rfl
@[simp] theorem setSt_disp (s : State) (b : Byte) : (s.setSt b).disp = s.disp := rfl
@[simp] theorem setSt_keys (s : State) (b : Byte) : (s.setSt b).keys = s.keys := rfl
@[simp] theorem setSt_kprev (s : State) (b : Byte) : (s.setSt b).kprev = s.kprev := rfl
@[simp] theorem setSt_quirks (s : State) (b : Byte) : (s.setSt b).quirks = s.quirks := rfl
@[simp] theorem setSt_err (s : State) (b : Byte) : (s.setSt b).err = s.err := rfl
@[simp] theorem setSt_romOpen (s : State) (b : Byte) : (s.setSt b).romOpen = s.romOpen := rfl
@[simp] theorem setSt_rndIn (s : State) (b : Byte) : (s.setSt b).rndIn = s.rndIn := rfl
@[simp] theorem setSt_draws (s : State) (b : Byte) : (s.setSt b).draws = s.draws := rfl
@[simp] theorem setSt_pending (s : State) (b : Byte) : (s.setSt b).pending = s.pending := rfl

@[simp] theorem setMem_v (s : State) (m : Memory) : (s.setMem m).v = s.v := rfl
@[simp] theorem setMem_index (s : State) (m : Memory) : (s.setMem m).index = s.index := rfl
@[simp] theorem setMem_pc (s : State) (m : Memory) : (s.setMem m).pc = s.pc := rfl
@[simp] theorem setMem_stack (s : State) (m : Memory) : (s.setMem m).stack = s.stack := rfl
@[simp] theorem setMem_dt (s : State) (m : Memory) : (s.setMem m).dt = s.dt := rfl
@[simp] theorem setMem_st (s : State) (m : Memory) : (s.setMem m).st = s.st := rfl
@[simp] theorem setMem_mem (s : State) (m : Memory) : (s.setMem m).mem = m := rfl
@[simp] theorem setMem_disp (s : State) (m : Memory) : (s.setMem m).disp = s.disp := rfl
@[simp] theorem setMem_keys (s : State) (m : Memory) : (s.setMem m).keys = s.keys := rfl
@[simp] theorem setMem_kprev (s : State) (m : Memory) : (s.setMem m).kprev = s.kprev := rfl
@[simp] theorem setMem_quirks (s : State) (m : Memory) : (s.setMem m).quirks = s.quirks := rfl
@[simp] theorem setMem_err (s : State) (m : Memory) : (s.setMem m).err = s.err := rfl
@[simp] theorem setMem_romOpen (s : State) (m : Memory) : (s.setMem m).romOpen = s.romOpen := rfl
@[simp] theorem setMem_rndIn (s : State) (m : Memory) : (s.setMem m).rndIn = s.rndIn := rfl
@[simp] theorem setMem_draws (s : State) (m : Memory) : (s.setMem m).draws = s.draws := rfl
@[simp] theorem setMem_pending (s : State) (m : Memory) : (s.setMem m).pending = s.pending := rfl

@[simp] theorem setDisp_v (s : State) (d : Display) : (s.setDisp d).v = s.v := rfl
@[simp] theorem setDisp_index (s : State) (d : Display) : (s.setDisp d).index = s.index := rfl
@[simp] theorem setDisp_pc (s : State) (d : Display) : (s.setDisp d).pc = s.pc := rfl
@[simp] theorem setDisp_stack (s : State) (d : Display) : (s.setDisp d).stack = s.stack := rfl
@[simp] theorem setDisp_dt (s : State) (d : Display) : (s.setDisp d).dt = s.dt := rfl
@[simp] theorem setDisp_st (s : State) (d : Display) : (s.setDisp d).st = s.st := rfl
@[simp] theorem setDisp_mem (s : State) (d : Display) : (s.setDisp d).mem = s.mem := rfl
@[simp] theorem setDisp_disp (s : State) (d : Display) : (s.setDisp d).disp = d := rfl
@[simp] theorem setDisp_keys (s : State) (d : Display) : (s.setDisp d).keys = s.keys := rfl
@[simp] theorem setDisp_kprev (s : State) (d : Display) : (s.setDisp d).kprev = s.kprev := rfl
@[simp] theorem setDisp_quirks (s : State) (d : Display) : (s.setDisp d).quirks = s.quirks := rfl
@[simp] theorem setDisp_err (s : State) (d : Display) : (s.setDisp d).err = s.err := rfl
@[simp] theorem setDisp_romOpen (s : State) (d : Display) : (s.setDisp d).romOpen = s.romOpen := rfl
@[simp] theorem setDisp_rndIn (s : State) (d : Display) : (s.setDisp d).rndIn = s.rndIn := rfl
@[simp] theorem setDisp_draws (s : State) (d : Display) : (s.setDisp d).draws = s.draws := rfl
@[simp] theorem setDisp_pending (s : State) (d : Display) : (s.setDisp d).pending = s.pending := rfl

@[simp] theorem setKeys_v (s : State) (k : Word) : (s.setKeys k).v = s.v := rfl
@[simp] theorem setKeys_index (s : State) (k : Word) : (s.setKeys k).index = s.index := rfl
@[simp] theorem setKeys_pc (s : State) (k : Word) : (s.setKeys k).pc = s.pc := rfl
@[simp] theorem setKeys_stack (s : State) (k : Word) : (s.setKeys k).stack = s.stack := rfl
@[simp] theorem setKeys_dt (s : State) (k : Word) : (s.setKeys k).dt = s.dt := rfl
@[simp] theorem setKeys_st (s : State) (k : Word) : (s.setKeys k).st = s.st := rfl
@[simp] theorem setKeys_mem (s : State) (k : Word) : (s.setKeys k).mem = s.mem := rfl
@[simp] theorem setKeys_disp (s : State) (k : Word) : (s.setKeys k).disp = s.disp := rfl
@[simp] theorem setKeys_keys (s : State) (k : Word) : (s.setKeys k).keys = k := rfl
@[simp] theorem setKeys_kprev (s : State) (k : Word) : (s.setKeys k).kprev = s.kprev := rfl
@[simp] theorem setKeys_quirks (s : State) (k : Word) : (s.setKeys k).quirks = s.quirks := rfl
@[simp] theorem setKeys_err (s : State) (k : Word) : (s.setKeys k).err = s.err := rfl
@[simp] theorem setKeys_romOpen (s : State) (k : Word) : (s.setKeys k).romOpen = s.romOpen := rfl
@[simp] theorem setKeys_rndIn (s : State) (k : Word) : (s.setKeys k).rndIn = s.rndIn := rfl
@[simp] theorem setKeys_draws (s : State) (k : Word) : (s.setKeys k).draws = s.draws := rfl
@[simp] theorem setKeys_pending (s : State) (k : Word) : (s.setKeys k).pending = s.pending := rfl

@[simp] theorem setKprev_v (s : State) (k : Word) : (s.setKprev k).v = s.v := rfl
@[simp] theorem setKprev_index (s : State) (k : Word) : (s.setKprev k).index = s.index := rfl
@[simp] theorem setKprev_pc (s : State) (k : Word) : (s.setKprev k).pc = s.pc := rfl
@[simp] theorem setKprev_stack (s : State) (k : Word) : (s.setKprev k).stack = s.stack := rfl
@[simp] theorem setKprev_dt (s : State) (k : Word) : (s.setKprev k).dt = s.dt := rfl
@[simp] theorem setKprev_st (s : State) (k : Word) : (s.setKprev k).st = s.st := rfl
@[simp] theorem setKprev_mem (s : State) (k : Word) : (s.setKprev k).mem = s.mem := rfl
@[simp] theorem setKprev_disp (s : State) (k : Word) : (s.setKprev k).disp = s.disp := rfl
@[simp] theorem setKprev_keys (s : State) (k : Word) : (s.setKprev k).keys = s.keys := rfl
@[simp] theorem setKprev_kprev (s : State) (k : Word) : (s.setKprev k).kprev = k := rfl
@[simp] theorem setKprev_quirks (s : State) (k : Word) : (s.setKprev k).quirks = s.quirks := rfl
@[simp] theorem setKprev_err (s : State) (k : Word) : (s.setKprev k).err = s.err := rfl
@[simp] theorem setKprev_romOpen (s : State) (k : Word) : (s.setKprev k).romOpen = s.romOpen := rfl
@[simp] theorem setKprev_rndIn (s : State) (k : Word) : (s.setKprev k).rndIn = s.rndIn := rfl
@[simp] theorem setKprev_draws (s : State) (k : Word) : (s.setKprev k).draws = s.draws := rfl
@[simp] theorem setKprev_pending (s : State) (k : Word) : (s.setKprev k).pending = s.pending := rfl

@[simp] theorem setErr_v (s : State) (c : Option Cause) : (s.setErr c).v = s.v := rfl
@[simp] theorem setErr_index (s : State) (c : Option Cause) : (s.setErr c).index = s.index := rfl
@[simp] theorem setErr_pc (s : State) (c : Option Cause) : (s.setErr c).pc = s.pc := rfl
@[simp] theorem setErr_stack (s : State) (c : Option Cause) : (s.setErr c).stack = s.stack := rfl
@[simp] theorem setErr_dt (s : State) (c : Option Cause) : (s.setErr c).dt = s.dt := rfl
@[simp] theorem setErr_st (s : State) (c : Option Cause) : (s.setErr c).st = s.st := rfl
@[simp] theorem setErr_mem (s : State) (c : Option Cause) : (s.setErr c).mem = s.mem := rfl
@[simp] theorem setErr_disp (s : State) (c : Option Cause) : (s.setErr c).disp = s.disp := rfl
@[simp] theorem setErr_keys (s : State) (c : Option Cause) : (s.setErr c).keys = s.keys := rfl
@[simp] theorem setErr_kprev (s : State) (c : Option Cause) : (s.setErr c).kprev = s.kprev := rfl
@[simp] theorem setErr_quirks (s : State) (c : Option Cause) : (s.setErr c).quirks = s.quirks := rfl
@[simp] theorem setErr_err (s : State) (c : Option Cause) : (s.setErr c).err = c := rfl
@[simp] theorem setErr_romOpen (s : State) (c : Option Cause) : (s.setErr c).romOpen = s.romOpen := rfl
@[simp] theorem setErr_rndIn (s : State) (c : Option Cause) : (s.setErr c).rndIn = s.rndIn := rfl
@[simp] theorem setErr_draws (s : State) (c : Option Cause) : (s.setErr c).draws = s.draws := rfl
@[simp] theorem setErr_pending (s : State) (c : Option Cause) : (s.setErr c).pending = s.pending := rfl

@[simp] theorem setRomOpen_v (s : State) (b : Bool) : (s.setRomOpen b).v = s.v := rfl
@[simp] theorem setRomOpen_index (s : State) (b : Bool) : (s.setRomOpen b).index = s.index := rfl
@[simp] theorem setRomOpen_pc (s : State) (b : Bool) : (s.setRomOpen b).pc = s.pc := rfl
@[simp] theorem setRomOpen_stack (s : State) (b : Bool) : (s.setRomOpen b).stack = s.stack := rfl
@[simp] theorem setRomOpen_dt (s : State) (b : Bool) : (s.setRomOpen b).dt = s.dt := rfl
@[simp] theorem setRomOpen_st (s : State) (b : Bool) : (s.setRomOpen b).st = s.st := rfl
@[simp] theorem setRomOpen_mem (s : State) (b : Bool) : (s.setRomOpen b).mem = s.mem := rfl
@[simp] theorem setRomOpen_disp (s : State) (b : Bool) : (s.setRomOpen b).disp = s.disp := rfl
@[simp] theorem setRomOpen_keys (s : State) (b : Bool) : (s.setRomOpen b).keys = s.keys := rfl
@[simp] theorem setRomOpen_kprev (s : State) (b : Bool) : (s.setRomOpen b).kprev = s.kprev := rfl
@[simp] theorem setRomOpen_quirks (s : State) (b : Bool) : (s.setRomOpen b).quirks = s.quirks := rfl
@[simp] theorem setRomOpen_err (s : State) (b : Bool) : (s.setRomOpen b).err = s.err := rfl
@[simp] theorem setRomOpen_romOpen (s : State) (b : Bool) : (s.setRomOpen b).romOpen = b := rfl
@[simp] theorem setRomOpen_rndIn (s : State) (b : Bool) : (s.setRomOpen b).rndIn = s.rndIn := rfl
@[simp] theorem setRomOpen_draws (s : State) (b : Bool) : (s.setRomOpen b).draws = s.draws := rfl
@[simp] theorem setRomOpen_pending (s : State) (b : Bool) : (s.setRomOpen b).pending = s.pending := rfl

@[simp] theorem setRandom_v (s : State) (l : List Byte) (n : Nat) : (s.setRandom l n).v = s.v := rfl
@[simp] theorem setRandom_index (s : State) (l : List Byte) (n : Nat) : (s.setRandom l n).index = s.index := rfl
@[simp] theorem setRandom_pc (s : State) (l : List Byte) (n : Nat) : (s.setRandom l n).pc = s.pc := rfl
@[simp] theorem setRandom_stack (s : State) (l : List Byte) (n : Nat) : (s.setRandom l n).stack = s.stack := rfl
@[simp] theorem setRandom_dt (s : State) (l : List Byte) (n : Nat) : (s.setRandom l n).dt = s.dt := rfl
@[simp] theorem setRandom_st (s : State) (l : List Byte) (n : Nat) : (s.setRandom l n).st = s.st := rfl
@[simp] theorem setRandom_mem (s : State) (l : List Byte) (n : Nat) : (s.setRandom l n).mem = s.mem := rfl
@[simp] theorem setRandom_disp (s : State) (l : List Byte) (n : Nat) : (s.setRandom l n).disp = s.disp := rfl
@[simp] theorem setRandom_keys (s : State) (l : List Byte) (n : Nat) : (s.setRandom l n).keys = s.keys := rfl
@[simp] theorem setRandom_kprev (s : State) (l : List Byte) (n : Nat) : (s.setRandom l n).kprev = s.kprev := rfl
@[simp] theorem setRandom_quirks (s : State) (l : List Byte) (n : Nat) : (s.setRandom l n).quirks = s.quirks := rfl
@[simp] theorem setRandom_err (s : State) (l : List Byte) (n : Nat) : (s.setRandom l n).err = s.err := rfl
@[simp] theorem setRandom_romOpen (s : State) (l : List Byte) (n : Nat) : (s.setRandom l n).romOpen = s.romOpen := rfl
@[simp] theorem setRandom_rndIn (s : State) (l : List Byte) (n : Nat) : (s.setRandom l n).rndIn = l := rfl
@[simp] theorem setRandom_draws (s : State) (l : List Byte) (n : Nat) : (s.setRandom l n).draws = n := rfl
@[simp] theorem setRandom_pending (s : State) (l : List Byte) (n : Nat) : (s.setRandom l n).pending = s.pending := rfl

@[simp] theorem setPending_v (s : State) (l : List Event) : (s.setPending l).v = s.v := rfl
@[simp] theorem setPending_index (s : State) (l : List Event) : (s.setPending l).index = s.index := rfl
@[simp] theorem setPending_pc (s : State) (l : List Event) : (s.setPending l).pc = s.pc := rfl
@[simp] theorem setPending_stack (s : State) (l : List Event) : (s.setPending l).stack = s.stack := rfl
@[simp] theorem setPending_dt (s : State) (l : List Event) : (s.setPending l).dt = s.dt := rfl
@[simp] theorem setPending_st (s : State) (l : List Event) : (s.setPending l).st = s.st := rfl
@[simp] theorem setPending_mem (s : State) (l : List Event) : (s.setPending l).mem = s.mem := rfl
@[simp] theorem setPending_disp (s : State) (l : List Event) : (s.setPending l).disp = s.disp := rfl
@[simp] theorem setPending_keys (s : State) (l : List Event) : (s.setPending l).keys = s.keys := rfl
@[simp] theorem setPending_kprev (s : State) (l : List Event) : (s.setPending l).kprev = s.kprev := rfl
@[simp] theorem setPending_quirks (s : State) (l : List Event) : (s.setPending l).quirks = s.quirks := rfl
@[simp] theorem setPending_err (s : State) (l : List Event) : (s.setPending l).err = s.err := rfl
@[simp] theorem setPending_romOpen (s : State) (l : List Event) : (s.setPending l).romOpen = s.romOpen := rfl
@[simp] theorem setPending_rndIn (s : State) (l : List Event) : (s.setPending l).rndIn = s.rndIn := rfl
@[simp] theorem setPending_draws (s : State) (l : List Event) : (s.setPending l).draws = s.draws := rfl
@[simp] theorem setPending_pending (s : State) (l : List Event) : (s.setPending l).pending = l := rfl

@[simp] theorem advance_v (s : State) : s.advance.v = s.v := rfl
@[simp] theorem advance_index (s : State) : s.advance.index = s.index := rfl
@[simp] theorem advance_pc (s : State) : s.advance.pc = s.pc + 2 := rfl
@[simp] theorem advance_stack (s : State) : s.advance.stack = s.stack := rfl
@[simp] theorem advance_dt (s : State) : s.advance.dt = s.dt := rfl
@[simp] theorem advance_st (s : State) : s.advance.st = s.st := rfl
@[simp] theorem advance_mem (s : State) : s.advance.mem = s.mem := rfl
@[simp] theorem advance_disp (s : State) : s.advance.disp = s.disp := rfl
@[simp] theorem advance_keys (s : State) : s.advance.keys = s.keys := rfl
@[simp] theorem advance_kprev (s : State) : s.advance.kprev = s.kprev := rfl
@[simp] theorem advance_quirks (s : State) : s.advance.quirks = s.quirks := rfl
@[simp] theorem advance_err (s : State) : s.advance.err = s.err := rfl
@[simp] theorem advance_romOpen (s : State) : s.advance.romOpen = s.romOpen := rfl
@[simp] theorem advance_rndIn (s : State) : s.advance.rndIn = s.rndIn := rfl
@[simp] theorem advance_draws (s : State) : s.advance.draws = s.draws := rfl
@[simp] theorem advance_pending (s : State) : s.advance.pending = s.pending := rfl

@[simp] theorem skip_v (s : State) : s.skip.v = s.v := rfl
@[simp] theorem skip_index (s : State) : s.skip.index = s.index := rfl
@[simp] theorem skip_pc (s : State) : s.skip.pc = s.pc + 2 := rfl
@[simp] theorem skip_stack (s : State) : s.skip.stack = s.stack := rfl
@[simp] theorem skip_dt (s : State) : s.skip.dt = s.dt := rfl
@[simp] theorem skip_st (s : State) : s.skip.st = s.st := rfl
@[simp] theorem skip_mem (s : State) : s.skip.mem = s.mem := rfl
@[simp] theorem skip_disp (s : State) : s.skip.disp = s.disp := rfl
@[simp] theorem skip_keys (s : State) : s.skip.keys = s.keys := rfl
@[simp] theorem skip_kprev (s : State) : s.skip.kprev = s.kprev := rfl
@[simp] theorem skip_quirks (s : State) : s.skip.quirks = s.quirks := rfl
@[simp] theorem skip_err (s : State) : s.skip.err = s.err := rfl
@[simp] theorem skip_romOpen (s : State) : s.skip.romOpen = s.romOpen := rfl
@[simp] theorem skip_rndIn (s : State) : s.skip.rndIn = s.rndIn := rfl
@[simp] theorem skip_draws (s : State) : s.skip.draws = s.draws := rfl
@[simp] theorem skip_pending (s : State) : s.skip.pending = s.pending := rfl

@[simp] theorem setFlag_v (s : State) (c : Bool) : (s.setFlag c).v = Vector.set s.v vf.val (flagByte c) vf.isLt := rfl
@[simp] theorem setFlag_index (s : State) (c : Bool) : (s.setFlag c).index = s.index := rfl
@[simp] theorem setFlag_pc (s : State) (c : Bool) : (s.setFlag c).pc = s.pc := rfl
@[simp] theorem setFlag_stack (s : State) (c : Bool) : (s.setFlag c).stack = s.stack := rfl
@[simp] theorem setFlag_dt (s : State) (c : Bool) : (s.setFlag c).dt = s.dt := rfl
@[simp] theorem setFlag_st (s : State) (c : Bool) : (s.setFlag c).st = s.st := rfl
@[simp] theorem setFlag_mem (s : State) (c : Bool) : (s.setFlag c).mem = s.mem := rfl
@[simp] theorem setFlag_disp (s : State) (c : Bool) : (s.setFlag c).disp = s.disp := rfl
@[simp] theorem setFlag_keys (s : State) (c : Bool) : (s.setFlag c).keys = s.keys := rfl
@[simp] theorem setFlag_kprev (s : State) (c : Bool) : (s.setFlag c).kprev = s.kprev := rfl
@[simp] theorem setFlag_quirks (s : State) (c : Bool) : (s.setFlag c).quirks = s.quirks := rfl
@[simp] theorem setFlag_err (s : State) (c : Bool) : (s.setFlag c).err = s.err := rfl
@[simp] theorem setFlag_romOpen (s : State) (c : Bool) : (s.setFlag c).romOpen = s.romOpen := rfl
@[simp] theorem setFlag_rndIn (s : State) (c : Bool) : (s.setFlag c).rndIn = s.rndIn := rfl
@[simp] theorem setFlag_draws (s : State) (c : Bool) : (s.setFlag c).draws = s.draws := rfl
@[simp] theorem setFlag_pending (s : State) (c : Bool) : (s.setFlag c).pending = s.pending := rfl

@[simp] theorem setResultAndFlag_v (s : State) (x : Nibble) (r : Byte) (c : Bool) : (s.setResultAndFlag x r c).v = Vector.set (Vector.set s.v x.val r x.isLt) vf.val (flagByte c) vf.isLt := rfl
@[simp] theorem setResultAndFlag_index (s : State) (x : Nibble) (r : Byte) (c : Bool) : (s.setResultAndFlag x r c).index = s.index := rfl
@[simp] theorem setResultAndFlag_pc (s : State) (x : Nibble) (r : Byte) (c : Bool) : (s.setResultAndFlag x r c).pc = s.pc := rfl
@[simp] theorem setResultAndFlag_stack (s : State) (x : Nibble) (r : Byte) (c : Bool) : (s.setResultAndFlag x r c).stack = s.stack := rfl
@[simp] theorem setResultAndFlag_dt (s : State) (x : Nibble) (r : Byte) (c : Bool) : (s.setResultAndFlag x r c).dt = s.dt := rfl
@[simp] theorem setResultAndFlag_st (s : State) (x : Nibble) (r : Byte) (c : Bool) : (s.setResultAndFlag x r c).st = s.st := rfl
@[simp] theorem setResultAndFlag_mem (s : State) (x : Nibble) (r : Byte) (c : Bool) : (s.setResultAndFlag x r c).mem = s.mem := rfl
@[simp] theorem setResultAndFlag_disp (s : State) (x : Nibble) (r : Byte) (c : Bool) : (s.setResultAndFlag x r c).disp = s.disp := rfl
@[simp] theorem setResultAndFlag_keys (s : State) (x : Nibble) (r : Byte) (c : Bool) : (s.setResultAndFlag x r c).keys = s.keys := rfl
@[simp] theorem setResultAndFlag_kprev (s : State) (x : Nibble) (r : Byte) (c : Bool) : (s.setResultAndFlag x r c).kprev = s.kprev := rfl
@[simp] theorem setResultAndFlag_quirks (s : State) (x : Nibble) (r : Byte) (c : Bool) : (s.setResultAndFlag x r c).quirks = s.quirks := rfl
@[simp] theorem setResultAndFlag_err (s : State) (x : Nibble) (r : Byte) (c : Bool) : (s.setResultAndFlag x r c).err = s.err := rfl
@[simp] theorem setResultAndFlag_romOpen (s : State) (x : Nibble) (r : Byte) (c : Bool) : (s.setResultAndFlag x r c).romOpen = s.romOpen := rfl
@[simp] theorem setResultAndFlag_rndIn (s : State) (x : Nibble) (r : Byte) (c : Bool) : (s.setResultAndFlag x r c).rndIn = s.rndIn := rfl
@[simp] theorem setResultAndFlag_draws (s : State) (x : Nibble) (r : Byte) (c : Bool) : (s.setResultAndFlag x r c).draws = s.draws := rfl
@[simp] theorem setResultAndFlag_pending (s : State) (x : Nibble) (r : Byte) (c : Bool) : (s.setResultAndFlag x r c).pending = s.pending := rfl

/-! `skipIf` changes at most `PC`. -/

@[simp] theorem skipIf_v (s : State) (c : Bool) : (s.skipIf c).v = s.v := by
  cases c <;> rfl
@[simp] theorem skipIf_index (s : State) (c : Bool) : (s.skipIf c).index = s.index := by
  cases c <;> rfl
@[simp] theorem skipIf_pc (s : State) (c : Bool) : (s.skipIf c).pc = if c then s.pc + 2 else s.pc := by
  cases c <;> rfl
@[simp] theorem skipIf_stack (s : State) (c : Bool) : (s.skipIf c).stack = s.stack := by
  cases c <;> rfl
@[simp] theorem skipIf_dt (s : State) (c : Bool) : (s.skipIf c).dt = s.dt := by
  cases c <;> rfl
@[simp] theorem skipIf_st (s : State) (c : Bool) : (s.skipIf c).st = s.st := by
  cases c <;> rfl
@[simp] theorem skipIf_mem (s : State) (c : Bool) : (s.skipIf c).mem = s.mem := by
  cases c <;> rfl
@[simp] theorem skipIf_disp (s : State) (c : Bool) : (s.skipIf c).disp = s.disp := by
  cases c <;> rfl
@[simp] theorem skipIf_keys (s : State) (c : Bool) : (s.skipIf c).keys = s.keys := by
  cases c <;> rfl
@[simp] theorem skipIf_kprev (s : State) (c : Bool) : (s.skipIf c).kprev = s.kprev := by
  cases c <;> rfl
@[simp] theorem skipIf_quirks (s : State) (c : Bool) : (s.skipIf c).quirks = s.quirks := by
  cases c <;> rfl
@[simp] theorem skipIf_err (s : State) (c : Bool) : (s.skipIf c).err = s.err := by
  cases c <;> rfl
@[simp] theorem skipIf_romOpen (s : State) (c : Bool) : (s.skipIf c).romOpen = s.romOpen := by
  cases c <;> rfl
@[simp] theorem skipIf_rndIn (s : State) (c : Bool) : (s.skipIf c).rndIn = s.rndIn := by
  cases c <;> rfl
@[simp] theorem skipIf_draws (s : State) (c : Bool) : (s.skipIf c).draws = s.draws := by
  cases c <;> rfl
@[simp] theorem skipIf_pending (s : State) (c : Bool) : (s.skipIf c).pending = s.pending := by
  cases c <;> rfl

/-! `V[j]` after an update. -/

@[simp] theorem reg_setReg_same (s : State) (x : Nibble) (b : Byte) : (s.setReg x b).reg x = b := by
  simp [State.reg]

theorem reg_setReg_ne (s : State) (x j : Nibble) (b : Byte) (h : j ≠ x) : (s.setReg x b).reg j = s.reg j := by
  have h' : x.val ≠ j.val := fun e => h (Fin.ext e.symm)
  simp [State.reg, h']

theorem reg_setReg (s : State) (x j : Nibble) (b : Byte) : (s.setReg x b).reg j = if j = x then b else s.reg j := by
  by_cases h : j = x
  · subst h; simp
  · simp [h, reg_setReg_ne s x j b h]

/-- The flag is written last: VF ends as the flag whatever `x` is (rule R11). -/
theorem reg_setResultAndFlag (s : State) (x j : Nibble) (r : Byte) (c : Bool) :
    (s.setResultAndFlag x r c).reg j = if j = vf then flagByte c else if j = x then r else s.reg j := by
  simp [State.setResultAndFlag, State.setFlag, reg_setReg]

theorem reg_setFlag (s : State) (j : Nibble) (c : Bool) :
    (s.setFlag c).reg j = if j = vf then flagByte c else s.reg j := by
  simp [State.setFlag, reg_setReg]

/-- A state that differs from `s` in no V register reads the same in every register. -/
theorem reg_congr (s t : State) (h : t.v = s.v) (j : Nibble) : t.reg j = s.reg j := by
  simp [State.reg, h]

/-- A state whose memory is that of `s` reads the same at every address. -/
theorem byte_congr (s t : State) (h : t.mem = s.mem) (a : Nat) : t.byte a = s.byte a := by
  simp [State.byte, h]

@[simp] theorem byte_setReg (s : State) (x : Nibble) (b : Byte) (a : Nat) : (s.setReg x b).byte a = s.byte a := rfl
@[simp] theorem byte_setRegs (s : State) (v : Vector Byte 16) (a : Nat) : (s.setRegs v).byte a = s.byte a := rfl
@[simp] theorem reg_setIndex (s : State) (w : Word) (j : Nibble) : (s.setIndex w).reg j = s.reg j := rfl
@[simp] theorem byte_setIndex (s : State) (w : Word) (a : Nat) : (s.setIndex w).byte a = s.byte a := rfl
@[simp] theorem reg_setPc (s : State) (w : Word) (j : Nibble) : (s.setPc w).reg j = s.reg j := rfl
@[simp] theorem byte_setPc (s : State) (w : Word) (a : Nat) : (s.setPc w).byte a = s.byte a := rfl
@[simp] theorem reg_setStack (s : State) (l : List Word) (j : Nibble) : (s.setStack l).reg j = s.reg j := rfl
@[simp] theorem byte_setStack (s : State) (l : List Word) (a : Nat) : (s.setStack l).byte a = s.byte a := rfl
@[simp] theorem reg_setDt (s : State) (b : Byte) (j : Nibble) : (s.setDt b).reg j = s.reg j := rfl
@[simp] theorem byte_setDt (s : State) (b : Byte) (a : Nat) : (s.setDt b).byte a = s.byte a := rfl
@[simp] theorem reg_setSt (s : State) (b : Byte) (j : Nibble) : (s.setSt b).reg j = s.reg j := rfl
@[simp] theorem byte_setSt (s : State) (b : Byte) (a : Nat) : (s.setSt b).byte a = s.byte a := rfl
@[simp] theorem reg_setMem (s : State) (m : Memory) (j : Nibble) : (s.setMem m).reg j = s.reg j := rfl
@[simp] theorem reg_setDisp (s : State) (d : Display) (j : Nibble) : (s.setDisp d).reg j = s.reg j := rfl
@[simp] theorem byte_setDisp (s : State) (d : Display) (a : Nat) : (s.setDisp d).byte a = s.byte a := rfl
@[simp] theorem reg_setKeys (s : State) (k : Word) (j : Nibble) : (s.setKeys k).reg j = s.reg j := rfl
@[simp] theorem byte_setKeys (s : State) (k : Word) (a : Nat) : (s.setKeys k).byte a = s.byte a := rfl
@[simp] theorem reg_setKprev (s : State) (k : Word) (j : Nibble) : (s.setKprev k).reg j = s.reg j := rfl
@[simp] theorem byte_setKprev (s : State) (k : Word) (a : Nat) : (s.setKprev k).byte a = s.byte a := rfl
@[simp] theorem reg_setErr (s : State) (c : Option Cause) (j : Nibble) : (s.setErr c).reg j = s.reg j := rfl
@[simp] theorem byte_setErr (s : State) (c : Option Cause) (a : Nat) : (s.setErr c).byte a = s.byte a := rfl
@[simp] theorem reg_setRomOpen (s : State) (b : Bool) (j : Nibble) : (s.setRomOpen b).reg j = s.reg j := rfl
@[simp] theorem byte_setRomOpen (s : State) (b : Bool) (a : Nat) : (s.setRomOpen b).byte a = s.byte a := rfl
@[simp] theorem reg_setRandom (s : State) (l : List Byte) (n : Nat) (j : Nibble) : (s.setRandom l n).reg j = s.reg j := rfl
@[simp] theorem byte_setRandom (s : State) (l : List Byte) (n : Nat) (a : Nat) : (s.setRandom l n).byte a = s.byte a := rfl
@[simp] theorem reg_setPending (s : State) (l : List Event) (j : Nibble) : (s.setPending l).reg j = s.reg j := rfl
@[simp] theorem byte_setPending (s : State) (l : List Event) (a : Nat) : (s.setPending l).byte a = s.byte a := rfl
@[simp] theorem reg_advance (s : State) (j : Nibble) : s.advance.reg j = s.reg j := rfl
@[simp] theorem byte_advance (s : State) (a : Nat) : s.advance.byte a = s.byte a := rfl
@[simp] theorem reg_skip (s : State) (j : Nibble) : s.skip.reg j = s.reg j := rfl
@[simp] theorem byte_skip (s : State) (a : Nat) : s.skip.byte a = s.byte a := rfl
@[simp] theorem byte_setFlag (s : State) (c : Bool) (a : Nat) : (s.setFlag c).byte a = s.byte a := rfl
@[simp] theorem byte_setResultAndFlag (s : State) (x : Nibble) (r : Byte) (c : Bool) (a : Nat) : (s.setResultAndFlag x r c).byte a = s.byte a := rfl
@[simp] theorem reg_skipIf (s : State) (c : Bool) (j : Nibble) : (s.skipIf c).reg j = s.reg j := by cases c <;> rfl
@[simp] theorem byte_skipIf (s : State) (c : Bool) (a : Nat) : (s.skipIf c).byte a = s.byte a := by cases c <;> rfl
@[simp] theorem byte_setMem (s : State) (m : Memory) (a : Nat) : (s.setMem m).byte a = Memory.read m a := rfl
@[simp] theorem reg_setRegs (s : State) (v : Vector Byte 16) (j : Nibble) : (s.setRegs v).reg j = v[j.val] := rfl

end Sys2Proof.Machine.State
end

