-- ==== Sys2Proof/Laws/Memory.lean ====
section
/-! SUPPORT. The laws of memory: read after write, and that every operation keeps the canonical form. -/

namespace Sys2Proof.Machine.Memory

/-- A read of the written address gives the byte written, in any memory whose addresses rise. -/
theorem read_write_same (m : Memory) (a : Nat) (v : Byte) : ∀ lo, rising lo m = true → read (write m a v) a = v := by
  induction m with
  | nil => intro _ _; by_cases h : v = unlisted a <;> simp [write, read, h]
  | cons c m ih =>
    obtain ⟨b, u⟩ := c
    intro lo hr
    have hm : rising (some b) m = true := by cases lo <;> simp_all [rising]
    have skip : ∀ (l : Memory) (k : Nat), rising (some k) l = true → a ≤ k → read l a = unlisted a := by
      intro l
      induction l with
      | nil => intro k _ _; rfl
      | cons d l il =>
        obtain ⟨e, w⟩ := d
        intro k hk hak
        simp only [rising, Bool.and_eq_true, decide_eq_true_eq] at hk
        have : e ≠ a := by omega
        simp only [read, this, if_false]
        exact il e hk.2 (by omega)
    unfold write
    split
    · next hab =>
      have hne : b ≠ a := by omega
      by_cases hv : v = unlisted a
      · simp only [hv, if_true, read, hne, if_false]
        exact skip m b hm (by omega)
      · simp [hv, read]
    · split
      · next hab =>
        by_cases hv : v = unlisted a
        · simp only [hv, if_true]
          exact skip m b hm (by omega)
        · simp [hv, read]
      · next h1 h2 =>
        have hne : b ≠ a := fun e => h2 e.symm
        simp only [read, hne, if_false]
        exact ih (some b) hm

/-- A write leaves every other address alone. -/
theorem read_write_other (m : Memory) (a c : Nat) (v : Byte) (hne : c ≠ a) : read (write m a v) c = read m c := by
  induction m with
  | nil => by_cases h : v = unlisted a <;> simp [write, read, h, hne.symm]
  | cons d m ih =>
    obtain ⟨b, u⟩ := d
    unfold write
    split
    · by_cases hv : v = unlisted a <;> simp [hv, read, hne.symm]
    · split
      · next _ hab =>
        subst hab
        by_cases hv : v = unlisted a <;> simp [hv, read, hne.symm]
      · by_cases hbc : b = c <;> simp [read, hbc, ih]

theorem rising_write (m : Memory) (a : Nat) (v : Byte) :
    ∀ lo, rising lo m = true → (∀ k, lo = some k → k < a) → rising lo (write m a v) = true := by
  induction m with
  | nil =>
    intro lo _ hlo
    by_cases h : v = unlisted a
    · cases lo <;> simp [write, h, rising]
    · cases lo with
      | none => simp [write, h, rising]
      | some k => simp [write, h, rising, hlo k rfl]
  | cons d m ih =>
    obtain ⟨b, u⟩ := d
    intro lo hr hlo
    have hm : rising (some b) m = true := by cases lo <;> simp_all [rising]
    have weaken : ∀ k, k ≤ b → rising (some k) m = true := by
      intro k hk
      cases m with
      | nil => rfl
      | cons e m =>
        simp only [rising, Bool.and_eq_true, decide_eq_true_eq] at hm ⊢
        exact ⟨by omega, hm.2⟩
    have relax : rising none m = true := by
      cases m with
      | nil => rfl
      | cons e m =>
        simp only [rising, Bool.and_eq_true] at hm ⊢
        exact hm.2
    unfold write
    split
    · next hab =>
      by_cases hv : v = unlisted a
      · simp only [hv, if_true]; exact hr
      · simp only [hv, if_false]
        cases lo with
        | none => simp [rising, hab, hm]
        | some k => simp [rising, hab, hm, hlo k rfl]
    · split
      · next _ hab =>
        subst hab
        by_cases hv : v = unlisted a
        · simp only [hv, if_true]
          cases lo with
          | none => exact relax
          | some k => exact weaken k (by have := hlo k rfl; omega)
        · simp only [hv, if_false]
          cases lo <;> simp_all [rising]
      · next h1 h2 =>
        have hstep : rising (some b) (write m a v) = true :=
          ih (some b) hm (fun k hk => by cases hk; omega)
        cases lo with
        | none => simpa [rising] using hstep
        | some k =>
          simp only [rising, Bool.and_eq_true, decide_eq_true_eq] at hr ⊢
          exact ⟨hr.1, hstep⟩

theorem cellOk_write (m : Memory) (a : Nat) (v : Byte) (ha : a < Config.memSize) (h : m.all cellOk = true) :
    (write m a v).all cellOk = true := by
  induction m with
  | nil => by_cases hv : v = unlisted a <;> simp [write, hv, cellOk, ha]
  | cons d m ih =>
    obtain ⟨b, u⟩ := d
    simp only [List.all_cons, Bool.and_eq_true] at h
    unfold write
    split
    · by_cases hv : v = unlisted a
      · simp only [hv, if_true, List.all_cons, h.1, h.2, Bool.and_self]
      · simp [hv, cellOk, ha] at h ⊢
        exact h
    · split
      · by_cases hv : v = unlisted a
        · simp only [hv, if_true, h.2]
        · simp [hv, cellOk, ha] at h ⊢
          exact h.2
      · simp [h.1, ih h.2]

/-- Writing a byte of an address that exists keeps the canonical form. -/
theorem wf_write (m : Memory) (a : Nat) (v : Byte) (ha : a < Config.memSize) (h : wf m = true) : wf (write m a v) = true := by
  simp only [wf, Bool.and_eq_true] at h ⊢
  exact ⟨rising_write m a v none h.1 (by simp), cellOk_write m a v ha h.2⟩

/-- Writing bytes of addresses that exist keeps the canonical form. -/
theorem wf_writeBytes (bs : List Byte) : ∀ (m : Memory) (a : Nat), a + bs.length ≤ Config.memSize → wf m = true →
    wf (writeBytes m a bs) = true := by
  induction bs with
  | nil => intro m a _ h; exact h
  | cons b bs ih =>
    intro m a ha h
    simp only [List.length_cons] at ha
    exact ih (write m a b) (a + 1) (by omega) (wf_write m a b (by omega) h)

/-- Reset memory is in canonical form. -/
theorem wf_reset (q : Quirks) : wf (State.resetWith q).mem = true := rfl

/-- Writing bytes leaves every address outside them alone. -/
theorem read_writeBytes_outside (bs : List Byte) : ∀ (m : Memory) (a c : Nat), (c < a ∨ a + bs.length ≤ c) →
    read (writeBytes m a bs) c = read m c := by
  induction bs with
  | nil => intro m a c _; rfl
  | cons b bs ih =>
    intro m a c hc
    simp only [List.length_cons] at hc
    rw [writeBytes, ih (write m a b) (a + 1) c (by omega), read_write_other m a c b (by omega)]

/-- The `k`-th byte written is what its address then reads as. -/
theorem read_writeBytes_inside (bs : List Byte) : ∀ (m : Memory) (a k : Nat) (hk : k < bs.length), rising none m = true →
    read (writeBytes m a bs) (a + k) = bs[k] := by
  induction bs with
  | nil => intro m a k hk; simp at hk
  | cons b bs ih =>
    intro m a k hk hr
    have hr' : rising none (write m a b) = true := rising_write m a b none hr (by simp)
    cases k with
    | zero =>
      rw [writeBytes, read_writeBytes_outside bs _ (a + 1) (a + 0) (by omega)]
      simpa using read_write_same m a b none hr
    | succ k =>
      have := ih (write m a b) (a + 1) k (by simpa using hk) hr'
      rw [writeBytes]
      simpa [Nat.add_assoc, Nat.add_comm 1 k] using this

end Sys2Proof.Machine.Memory
end

