-- ==== Sys2Proof/Laws/Ops.lean ====
section
/-! SUPPORT. One lemma per shared operation that says everything it can do; later proofs cite these. -/

namespace Sys2Proof.Machine

/-- Taking an error always answers a next state, which is the state before with `ERR` set (rule R174). -/
@[simp] theorem raise_eq (e : Error) (s : State) : raise e s = .next (s.setErr (some (causeOf e))) := rfl

theorem push_cases (w : Word) (s : State) :
    (stackDepth ≤ s.sp ∧ push w s = .error .stackOverflow) ∨ (s.sp < stackDepth ∧ push w s = .ok (s.setStack (w :: s.stack))) := by
  by_cases h : stackDepth ≤ s.sp
  · exact .inl ⟨h, by simp [push, h]⟩
  · exact .inr ⟨by omega, by simp [push, h]⟩

theorem pop_cases (s : State) :
    (s.stack = [] ∧ pop s = .error .stackUnderflow) ∨ ∃ w rest, s.stack = w :: rest ∧ pop s = .ok (w, s.setStack rest) := by
  cases h : s.stack with
  | nil => exact .inl ⟨rfl, by simp [pop, h]⟩
  | cons w rest => exact .inr ⟨w, rest, rfl, by simp [pop, h]⟩

theorem rangeError_cases (first count : Nat) :
    ((count = 0 ∨ first + count ≤ Config.memSize) ∧ rangeError first count = none) ∨
    (count ≠ 0 ∧ Config.memSize < first + count ∧ rangeError first count = some (.memoryOverrun (first + count - 1))) := by
  by_cases h : count = 0 ∨ first + count ≤ Config.memSize
  · exact .inl ⟨h, by simp [rangeError, h]⟩
  · exact .inr ⟨by omega, by omega, by simp only [rangeError, if_neg h]⟩

theorem fetch_cases (a : Nat) (s : State) :
    (Config.memSize ≤ a + 1 ∧ fetch a s = .error (.fetchOverrun a)) ∨
    (a + 1 < Config.memSize ∧ fetch a s = .ok (compose (s.byte a) (s.byte (a + 1)))) := by
  by_cases h : Config.memSize ≤ a + 1
  · exact .inl ⟨h, by simp [fetch, h]⟩
  · exact .inr ⟨by omega, by simp [fetch, h]⟩

theorem consumeRandom_cases (s : State) :
    (∃ r rest, s.rndIn = r :: rest ∧ randomByte s = r ∧ consumeRandom s = s.setRandom rest s.draws) ∨
    (s.rndIn = [] ∧ randomByte s = Config.randomByte s.draws ∧ consumeRandom s = s.setRandom [] (s.draws + 1)) := by
  cases h : s.rndIn with
  | nil => exact .inr ⟨rfl, by simp [randomByte, h], by simp [consumeRandom, h]⟩
  | cons r rest => exact .inl ⟨r, rest, rfl, by simp [randomByte, h], by simp [consumeRandom, h]⟩

theorem hexkey_cases (b : Byte) :
    (15 < b.toNat ∧ hexkey b = none) ∨ (b.toNat ≤ 15 ∧ hexkey b = some b.toNat) := by
  by_cases h : 15 < b.toNat
  · exact .inl ⟨h, by simp [hexkey, h]⟩
  · exact .inr ⟨by omega, by simp [hexkey, h]⟩

/-- The lowest key is a 1 bit below 16 with no 1 bit under it; there is none only in the zero vector (rule R152). -/
theorem lowestKey_cases (w : Word) :
    (w = 0 ∧ lowestKey w = none) ∨
    ∃ k, k < 16 ∧ lowestKey w = some k ∧ w.getLsbD k = true ∧ ∀ j, j < k → w.getLsbD j = false := by
  cases h : lowestKey w with
  | none =>
    refine .inl ⟨?_, rfl⟩
    have h' := List.find?_eq_none.mp h
    apply BitVec.eq_of_getLsbD_eq
    intro i hi
    have := h' i (by simpa using hi)
    simpa using this
  | some k =>
    refine .inr ⟨k, ?_, rfl, ?_, ?_⟩
    · simpa using List.mem_of_find?_eq_some h
    · simpa using List.find?_some h
    · intro j hj
      have hk : k < 16 := by simpa using List.mem_of_find?_eq_some h
      have := (List.find?_range_eq_some.mp h).2.2 j hj
      simpa using this

/-- `flagByte` is 0 or 1 (rule R11). -/
theorem flagByte_toNat (c : Bool) : (flagByte c).toNat = if c then 1 else 0 := by
  cases c <;> rfl

end Sys2Proof.Machine
end

