-- ==== Sys2Proof/Laws/PerInstr.lean ====
section
/-! SUPPORT. Statements about every instruction as syntax, one lemma per constructor. -/

namespace Sys2Proof.Laws

/-- The encoded word lies in the opcode family (first nibble) of the instruction's row in rule R67. -/
def OpcodeFamily.Statement (i : Instr) : Prop := (encode i).toNat / 4096 = (rowOf i).pattern.toNat / 4096

theorem xyn_family {i : Instr} {op x y n : Nibble} (h : encode i = wordXYN op x y n)
    (hp : (rowOf i).pattern.toNat / 4096 = op.val) : OpcodeFamily.Statement i := by
  have := op.isLt; have := x.isLt; have := y.isLt; have := n.isLt
  rw [OpcodeFamily.Statement, h, hp, wordXYN_toNat]; omega

theorem xi_family {i : Instr} {op x : Nibble} {nn : Byte} (h : encode i = wordXI op x nn)
    (hp : (rowOf i).pattern.toNat / 4096 = op.val) : OpcodeFamily.Statement i := by
  have := op.isLt; have := x.isLt; have := nn.isLt
  rw [OpcodeFamily.Statement, h, hp, wordXI_toNat]; omega

theorem a_family {i : Instr} {op : Nibble} {nnn : Addr12} (h : encode i = wordA op nnn)
    (hp : (rowOf i).pattern.toNat / 4096 = op.val) : OpcodeFamily.Statement i := by
  have := op.isLt; have := nnn.isLt
  rw [OpcodeFamily.Statement, h, hp, wordA_toNat]; omega

theorem OpcodeFamily.cls : OpcodeFamily.Statement (.cls) := a_family rfl (by simp [rowOf])
theorem OpcodeFamily.ret : OpcodeFamily.Statement (.ret) := a_family rfl (by simp [rowOf])
theorem OpcodeFamily.jp (nnn : Addr12) : OpcodeFamily.Statement (.jp nnn) := a_family rfl (by simp [rowOf])
theorem OpcodeFamily.call (nnn : Addr12) : OpcodeFamily.Statement (.call nnn) := a_family rfl (by simp [rowOf])
theorem OpcodeFamily.seImm (x : Nibble) (nn : Byte) : OpcodeFamily.Statement (.seImm x nn) := xi_family rfl (by simp [rowOf])
theorem OpcodeFamily.sneImm (x : Nibble) (nn : Byte) : OpcodeFamily.Statement (.sneImm x nn) := xi_family rfl (by simp [rowOf])
theorem OpcodeFamily.seReg (x y : Nibble) : OpcodeFamily.Statement (.seReg x y) := xyn_family rfl (by simp [rowOf])
theorem OpcodeFamily.ldImm (x : Nibble) (nn : Byte) : OpcodeFamily.Statement (.ldImm x nn) := xi_family rfl (by simp [rowOf])
theorem OpcodeFamily.addImm (x : Nibble) (nn : Byte) : OpcodeFamily.Statement (.addImm x nn) := xi_family rfl (by simp [rowOf])
theorem OpcodeFamily.ldReg (x y : Nibble) : OpcodeFamily.Statement (.ldReg x y) := xyn_family rfl (by simp [rowOf])
theorem OpcodeFamily.orReg (x y : Nibble) : OpcodeFamily.Statement (.orReg x y) := xyn_family rfl (by simp [rowOf])
theorem OpcodeFamily.andReg (x y : Nibble) : OpcodeFamily.Statement (.andReg x y) := xyn_family rfl (by simp [rowOf])
theorem OpcodeFamily.xorReg (x y : Nibble) : OpcodeFamily.Statement (.xorReg x y) := xyn_family rfl (by simp [rowOf])
theorem OpcodeFamily.addReg (x y : Nibble) : OpcodeFamily.Statement (.addReg x y) := xyn_family rfl (by simp [rowOf])
theorem OpcodeFamily.subReg (x y : Nibble) : OpcodeFamily.Statement (.subReg x y) := xyn_family rfl (by simp [rowOf])
theorem OpcodeFamily.shr (x y : Nibble) : OpcodeFamily.Statement (.shr x y) := xyn_family rfl (by simp [rowOf])
theorem OpcodeFamily.subn (x y : Nibble) : OpcodeFamily.Statement (.subn x y) := xyn_family rfl (by simp [rowOf])
theorem OpcodeFamily.shl (x y : Nibble) : OpcodeFamily.Statement (.shl x y) := xyn_family rfl (by simp [rowOf])
theorem OpcodeFamily.sneReg (x y : Nibble) : OpcodeFamily.Statement (.sneReg x y) := xyn_family rfl (by simp [rowOf])
theorem OpcodeFamily.ldIndex (nnn : Addr12) : OpcodeFamily.Statement (.ldIndex nnn) := a_family rfl (by simp [rowOf])
theorem OpcodeFamily.jpOffset (nnn : Addr12) : OpcodeFamily.Statement (.jpOffset nnn) := a_family rfl (by simp [rowOf])
theorem OpcodeFamily.rnd (x : Nibble) (nn : Byte) : OpcodeFamily.Statement (.rnd x nn) := xi_family rfl (by simp [rowOf])
theorem OpcodeFamily.drw (x y n : Nibble) : OpcodeFamily.Statement (.drw x y n) := xyn_family rfl (by simp [rowOf])
theorem OpcodeFamily.skp (x : Nibble) : OpcodeFamily.Statement (.skp x) := xi_family rfl (by simp [rowOf])
theorem OpcodeFamily.sknp (x : Nibble) : OpcodeFamily.Statement (.sknp x) := xi_family rfl (by simp [rowOf])
theorem OpcodeFamily.ldFromDt (x : Nibble) : OpcodeFamily.Statement (.ldFromDt x) := xi_family rfl (by simp [rowOf])
theorem OpcodeFamily.ldKey (x : Nibble) : OpcodeFamily.Statement (.ldKey x) := xi_family rfl (by simp [rowOf])
theorem OpcodeFamily.ldDt (x : Nibble) : OpcodeFamily.Statement (.ldDt x) := xi_family rfl (by simp [rowOf])
theorem OpcodeFamily.ldSt (x : Nibble) : OpcodeFamily.Statement (.ldSt x) := xi_family rfl (by simp [rowOf])
theorem OpcodeFamily.addIndex (x : Nibble) : OpcodeFamily.Statement (.addIndex x) := xi_family rfl (by simp [rowOf])
theorem OpcodeFamily.ldFont (x : Nibble) : OpcodeFamily.Statement (.ldFont x) := xi_family rfl (by simp [rowOf])
theorem OpcodeFamily.ldBcd (x : Nibble) : OpcodeFamily.Statement (.ldBcd x) := xi_family rfl (by simp [rowOf])
theorem OpcodeFamily.storeRegs (x : Nibble) : OpcodeFamily.Statement (.storeRegs x) := xi_family rfl (by simp [rowOf])
theorem OpcodeFamily.loadRegs (x : Nibble) : OpcodeFamily.Statement (.loadRegs x) := xi_family rfl (by simp [rowOf])

end Sys2Proof.Laws
end

