-- ==== Sys2Proof/Laws/Step.lean ====
section
/-! SUPPORT. What a cycle and a step can do, said once: every proof about a step starts from one of these cases. -/

namespace Sys2Proof.Machine

/-- The four ways a cycle goes (rules R80, R188). -/
theorem cycle_cases (s : State) :
    (s.err ≠ none ∧ cycle s = .next s) ∨
    (s.err = none ∧ Config.memSize ≤ s.pc.toNat + 1 ∧ cycle s = .next (s.setErr (some .fetchOverrun))) ∨
    (s.err = none ∧ s.pc.toNat + 1 < Config.memSize ∧
      ∃ e, decodeWord (compose (s.byte s.pc.toNat) (s.byte (s.pc.toNat + 1))) = .error e ∧
        cycle s = .next (s.setRomOpen false).advance) ∨
    (s.err = none ∧ s.pc.toNat + 1 < Config.memSize ∧
      ∃ i, decodeWord (compose (s.byte s.pc.toNat) (s.byte (s.pc.toNat + 1))) = .ok i ∧
        cycle s = exec i (s.setRomOpen false)) := by
  cases he : s.err with
  | some c => exact .inl ⟨by simp, by simp [cycle, he]⟩
  | none =>
    obtain ⟨hp, hf⟩ | ⟨hp, hf⟩ := fetch_cases s.pc.toNat s
    · exact .inr (.inl ⟨rfl, hp, by simp [cycle, he, hf, causeOf]⟩)
    · cases hd : decodeWord (compose (s.byte s.pc.toNat) (s.byte (s.pc.toNat + 1))) with
      | error e => exact .inr (.inr (.inl ⟨rfl, hp, e, rfl, by simp [cycle, he, hf, hd]⟩))
      | ok i => exact .inr (.inr (.inr ⟨rfl, hp, i, rfl, by simp [cycle, he, hf, hd]⟩))

/-- A step is a cycle when no event is pending, else the oldest pending event. -/
theorem step_cases (s : State) :
    (s.pending = [] ∧ step s = cycle s) ∨ ∃ e rest, s.pending = e :: rest ∧ step s = perform e (s.setPending rest) := by
  cases h : s.pending with
  | nil => exact .inl ⟨rfl, by simp [step, h]⟩
  | cons e rest => exact .inr ⟨e, rest, rfl, by simp [step, h]⟩

/-- The four ways a ROM load goes (rule R192). -/
theorem loadRom_cases (bytes : List Byte) (s : State) :
    (s.err ≠ none ∧ loadRom bytes s = .next s) ∨
    (s.err = none ∧ s.romOpen = false ∧ loadRom bytes s = .refused .loadRomNotAfterReset) ∨
    (s.err = none ∧ s.romOpen = true ∧ Config.romMax < bytes.length ∧
      loadRom bytes s = .next (s.setErr (some .romTooLarge))) ∨
    (s.err = none ∧ s.romOpen = true ∧ bytes.length ≤ Config.romMax ∧
      loadRom bytes s = .next ((s.setMem (Memory.writeBytes s.mem Config.romBase bytes)).setRomOpen false)) := by
  cases he : s.err with
  | some c => exact .inl ⟨by simp, by simp [loadRom, he]⟩
  | none =>
    cases ho : s.romOpen with
    | false => exact .inr (.inl ⟨rfl, rfl, by simp [loadRom, he, ho]⟩)
    | true =>
      by_cases hl : bytes.length ≤ Config.romMax
      · exact .inr (.inr (.inr ⟨rfl, rfl, hl, by simp [loadRom, he, ho, romFits, hl]⟩))
      · exact .inr (.inr (.inl ⟨rfl, rfl, by omega, by simp [loadRom, he, ho, romFits, hl, causeOf]⟩))

end Sys2Proof.Machine
end

