-- ==== Sys2Proof/Tests/Slice0.lean ====
section
/-! SUPPORT. The model's own tests: the checks of WellFormed on ill-formed data, decoding of words written out from the patterns of rule R67, one step
of each instruction with the values of 95_test_vectors.md (the vector's number stands in each comment), and a witness for the hypotheses of
every statement that has some. -/

namespace Sys2Proof.Tests

open Sys2Proof Sys2Proof.Machine Sys2Proof.Claims

/-- All quirks false, the convention of 95_test_vectors.md. -/
def noQuirks : Quirks := ⟨false, false, false, false⟩

/-- The start state of a vector: reset, the word at 0x200, `PC` = 0x200. -/
def start (w : Word) : State := (State.resetWith noQuirks).withFetchWord 16 w.toNat

/-- `start` under given quirks. -/
def startWith (q : Quirks) (w : Word) : State := (State.resetWith q).withFetchWord 16 w.toNat

/-- One step answers a next state with the property. -/
def after (s : State) (p : State → Bool) : Bool :=
  match step s with
  | .next t => p t
  | _ => false

/-- Bytes put into memory before the step. -/
def withBytes (s : State) (a : Nat) (bs : List Byte) : State := s.setMem (Memory.writeBytes s.mem a bs)

/-! WellFormed refuses ill-formed data. -/

/-- Rule R61: `NN` = 0x25 is `Y` = 2, `N` = 5; with `Y` = 3 the record is no view of one word. -/
theorem test_fields_wf_refuses_wrong_nn : Fields.wf ⟨0xD, 1, 3, 5, 0x25, 0x125⟩ = false := by decide

/-- Rule R61: `NNN` = 0x125 has the top digit `X` = 1, not 2. -/
theorem test_fields_wf_refuses_wrong_nnn : Fields.wf ⟨0xD, 2, 2, 5, 0x25, 0x125⟩ = false := by decide

/-- The fields of 0xD125 as part 1 of 95_test_vectors.md lists them. -/
theorem test_fields_of_D125 : fieldsOf 0xD125 = ⟨0xD, 1, 2, 5, 0x25, 0x125⟩ ∧ (fieldsOf 0xD125).wf = true := by decide

/-- The fields of 0x8AB6 as part 1 of 95_test_vectors.md lists them. -/
theorem test_fields_of_8AB6 : fieldsOf 0x8AB6 = ⟨8, 0xA, 0xB, 6, 0xB6, 0xAB6⟩ := by decide

/-- Rule R62: `start > end` is refused. -/
theorem test_range_refuses_backwards : validRange 16 5 4 = false ∧ extract (0xD125 : Word) 5 4 = none := by decide

/-- Rule R62: `start ≥ W` is refused, also for the empty range at `W`. -/
theorem test_range_refuses_start_at_width : validRange 16 16 16 = false ∧ extract (0xD125 : Word) 16 16 = none := by decide

/-- Rule R62: `end > W` is refused. -/
theorem test_range_refuses_end_past_width : validRange 16 15 17 = false ∧ extract (0xD125 : Word) 15 17 = none := by decide

/-- Rule R192: a ROM of 3585 bytes does not fit, one of 3584 does. -/
theorem test_rom_too_long : romFits (List.replicate 3585 0xAA) = false ∧ romFits (List.replicate 3584 0xAA) = true := by decide +kernel

/-- E10. -/
theorem test_extract : extract (0xD125 : Word) 0 16 = some 0xD125 ∧ extract (0xD125 : Word) 15 16 = some 1 ∧ extract (0xD125 : Word) 1 2 = some 0 := by
  decide

/-- E11. -/
theorem test_compose : compose (0xD1 : Byte) (0x25 : Byte) = (0xD125 : Word) := by decide

/-! Decoding. Each word is the pattern of rule R67 in bits, its operand digits filled in by hand. -/

theorem test_decode_family0 :
    decodeWord 0b0000_0000_1110_0000#16 = .ok .cls ∧ decodeWord 0b0000_0000_1110_1110#16 = .ok .ret ∧
    decodeWord 0b0000_0000_0000_0000#16 = .error (.unknownOpcode 0) ∧ decodeWord 0b0000_0001_1110_0000#16 = .error (.unknownOpcode 0x01E0) := by
  decide

theorem test_decode_address_forms :
    decodeWord 0b0001_1010_1011_1101#16 = .ok (.jp 0xABD) ∧ decodeWord 0b0010_1010_1011_1100#16 = .ok (.call 0xABC) ∧
    decodeWord 0b1010_1111_0000_0001#16 = .ok (.ldIndex 0xF01) ∧ decodeWord 0b1011_0011_0000_1000#16 = .ok (.jpOffset 0x308) := by
  decide

theorem test_decode_immediate_forms :
    decodeWord 0b0011_1010_1111_0001#16 = .ok (.seImm 0xA 0xF1) ∧ decodeWord 0b0100_1010_1111_0001#16 = .ok (.sneImm 0xA 0xF1) ∧
    decodeWord 0b0110_0011_0010_1010#16 = .ok (.ldImm 3 0x2A) ∧ decodeWord 0b0111_1111_1000_0001#16 = .ok (.addImm 0xF 0x81) ∧
    decodeWord 0b1100_1010_0000_1111#16 = .ok (.rnd 0xA 0x0F) := by
  decide

theorem test_decode_register_skips :
    decodeWord 0b0101_1010_1011_0000#16 = .ok (.seReg 0xA 0xB) ∧ decodeWord 0b1001_1010_1011_0000#16 = .ok (.sneReg 0xA 0xB) ∧
    decodeWord 0b0101_1010_1011_0001#16 = .error (.unknownOpcode 0x5AB1) ∧ decodeWord 0b1001_1010_1011_0101#16 = .error (.unknownOpcode 0x9AB5) := by
  decide

theorem test_decode_family8 :
    decodeWord 0b1000_1010_1011_0000#16 = .ok (.ldReg 0xA 0xB) ∧ decodeWord 0b1000_1010_1011_0001#16 = .ok (.orReg 0xA 0xB) ∧
    decodeWord 0b1000_1010_1011_0010#16 = .ok (.andReg 0xA 0xB) ∧ decodeWord 0b1000_1010_1011_0011#16 = .ok (.xorReg 0xA 0xB) ∧
    decodeWord 0b1000_1010_1011_0100#16 = .ok (.addReg 0xA 0xB) ∧ decodeWord 0b1000_1010_1011_0101#16 = .ok (.subReg 0xA 0xB) ∧
    decodeWord 0b1000_1010_1011_0110#16 = .ok (.shr 0xA 0xB) ∧ decodeWord 0b1000_1010_1011_0111#16 = .ok (.subn 0xA 0xB) ∧
    decodeWord 0b1000_1010_1011_1110#16 = .ok (.shl 0xA 0xB) ∧ decodeWord 0b1000_1010_1011_1000#16 = .error (.unknownOpcode 0x8AB8) ∧
    decodeWord 0b1000_1010_1011_1111#16 = .error (.unknownOpcode 0x8ABF) := by
  decide

theorem test_decode_draw : decodeWord 0b1101_0001_0010_0101#16 = .ok (.drw 1 2 5) := by decide

theorem test_decode_familyE :
    decodeWord 0b1110_0001_1001_1110#16 = .ok (.skp 1) ∧ decodeWord 0b1110_1010_1010_0001#16 = .ok (.sknp 0xA) ∧
    decodeWord 0b1110_1010_1001_1111#16 = .error (.unknownOpcode 0xEA9F) := by
  decide

theorem test_decode_familyF :
    decodeWord 0b1111_0001_0000_0111#16 = .ok (.ldFromDt 1) ∧ decodeWord 0b1111_1010_0000_1010#16 = .ok (.ldKey 0xA) ∧
    decodeWord 0b1111_0011_0001_0101#16 = .ok (.ldDt 3) ∧ decodeWord 0b1111_0100_0001_1000#16 = .ok (.ldSt 4) ∧
    decodeWord 0b1111_0101_0001_1110#16 = .ok (.addIndex 5) ∧ decodeWord 0b1111_0110_0010_1001#16 = .ok (.ldFont 6) ∧
    decodeWord 0b1111_0111_0011_0011#16 = .ok (.ldBcd 7) ∧ decodeWord 0b1111_1000_0101_0101#16 = .ok (.storeRegs 8) ∧
    decodeWord 0b1111_0001_0110_0101#16 = .ok (.loadRegs 1) ∧ decodeWord 0b1111_1010_0001_0110#16 = .error (.unknownOpcode 0xFA16) := by
  decide

/-- Rule R44: of the bytes 6A 55 the first is the high one; the bytes after them are left over. -/
theorem test_decode_bytes : decode [0x6A, 0x55, 0x12] = .ok (.ldImm 0xA 0x55, [0x12]) ∧ decode [0x6A] = .error .tooShort := by decide

/-- The number of a table word: bit 0 is the least significant bit of the word. -/
theorem test_decode_table_word : decodeTableWord 16 0xD125 = some (.drw 1 2 5) ∧ decodeTableWord 16 0x5123 = none := by decide

/-! One step. -/

/-- S16. -/
theorem test_cls :
    after (((start 0x00E0).setDisp (Vector.replicate 32 (Vector.replicate 64 true))).setReg 15 7)
      (fun t => !t.disp.get 0 0 && !t.disp.get 63 0 && !t.disp.get 0 31 && !t.disp.get 63 31 && t.reg 15 == 7 && t.pc == 0x202) = true := by decide +kernel

/-- F1. -/
theorem test_ret :
    after ((((State.resetWith noQuirks).setPc 0x300).withFetchWord 16 0x00EE).setStack [0x0456, 0x0202])
      (fun t => t.pc == 0x456 && t.stack == [0x0202] && t.sp == 1) = true := by decide

/-- F2, E7. -/
theorem test_ret_empty : after (start 0x00EE) (fun t => errCode t.err == 1 && t.pc == 0x200) = true := by decide

/-- F3. -/
theorem test_jp_odd : after (start 0x1ABD) (fun t => t.pc == 0xABD) = true := by decide

/-- F5. -/
theorem test_call_at_top :
    after (((State.resetWith noQuirks).setPc 0xFFE).withFetchWord 16 0x2ABC) (fun t => t.stack == [0x1000] && t.pc == 0xABC) = true := by
  decide

/-- F7. -/
theorem test_call_full :
    after ((start 0x2300).setStack (List.replicate 16 0x0222)) (fun t => errCode t.err == 5 && t.pc == 0x200 && t.sp == 16) = true := by
  decide

/-- F8. -/
theorem test_seImm_skips : after (start 0x3F00) (fun t => t.pc == 0x204) = true := by decide

/-- F10, with a value of V[A] other than the immediate. -/
theorem test_seImm_goes_on : after (start 0x3A01) (fun t => t.pc == 0x202) = true := by decide

/-- F11. -/
theorem test_sneImm_goes_on : after ((start 0x4AFF).setReg 10 0xFF) (fun t => t.pc == 0x202) = true := by decide

/-- F12. -/
theorem test_sneImm_skips : after ((start 0x4AFF).setReg 10 0xFE) (fun t => t.pc == 0x204) = true := by decide

/-- F13. -/
theorem test_seReg_skips : after ((start 0x5AA0).setReg 10 0x37) (fun t => t.pc == 0x204) = true := by decide

/-- F14. -/
theorem test_seReg_goes_on : after (((start 0x5AB0).setReg 10 9).setReg 11 8) (fun t => t.pc == 0x202) = true := by decide

/-- A1. -/
theorem test_ldImm : after (start 0x6FAB) (fun t => t.reg 15 == 0xAB && t.pc == 0x202) = true := by decide

/-- A3. -/
theorem test_addImm : after (((start 0x7AFF).setReg 10 1).setReg 15 7) (fun t => t.reg 10 == 0 && t.reg 15 == 7) = true := by decide

/-- A4. -/
theorem test_addImm_vf : after ((start 0x7F01).setReg 15 0xFF) (fun t => t.reg 15 == 0) = true := by decide

/-- A6. -/
theorem test_ldReg :
    after ((((start 0x8AB0).setReg 10 1).setReg 11 0xC3).setReg 15 7) (fun t => t.reg 10 == 0xC3 && t.reg 11 == 0xC3 && t.reg 15 == 7) = true := by
  decide

/-- A7. -/
theorem test_orReg :
    after ((((start 0x8AB1).setReg 10 0x55).setReg 11 0xAA).setReg 15 7) (fun t => t.reg 10 == 0xFF && t.reg 15 == 7) = true := by
  decide

/-- A8. -/
theorem test_andReg :
    after ((((start 0x8AB2).setReg 10 0x5F).setReg 11 0xAA).setReg 15 7) (fun t => t.reg 10 == 0x0A && t.reg 15 == 7) = true := by
  decide

/-- A9. -/
theorem test_xorReg :
    after ((((start 0x8AB3).setReg 10 0x5F).setReg 11 0xAA).setReg 15 7) (fun t => t.reg 10 == 0xF5 && t.reg 15 == 7) = true := by
  decide

/-- A11. -/
theorem test_addReg_carry :
    after (((start 0x8AB4).setReg 10 0xFF).setReg 11 1) (fun t => t.reg 10 == 0 && t.reg 15 == 1) = true := by decide

/-- A16. -/
theorem test_addReg_flag_wins : after (((start 0x8FB4).setReg 15 3).setReg 11 2) (fun t => t.reg 15 == 0) = true := by decide

/-- A20. -/
theorem test_subReg_borrow :
    after (((start 0x8AB5).setReg 10 0).setReg 11 1) (fun t => t.reg 10 == 0xFF && t.reg 15 == 0) = true := by decide

/-- A19. -/
theorem test_subReg_equal :
    after (((start 0x8AB5).setReg 10 7).setReg 11 7) (fun t => t.reg 10 == 0 && t.reg 15 == 1) = true := by decide

/-- A28. -/
theorem test_shr :
    after (((start 0x8AB6).setReg 10 0xFF).setReg 11 2) (fun t => t.reg 10 == 0x7F && t.reg 11 == 2 && t.reg 15 == 1) = true := by
  decide

/-- A32. -/
theorem test_shr_vy :
    after (((startWith ⟨true, false, false, false⟩ 0x8AF6).setReg 10 2).setReg 15 0x81) (fun t => t.reg 10 == 0x40 && t.reg 15 == 1) = true := by
  decide

/-- A25. -/
theorem test_subn_borrow :
    after (((start 0x8AB7).setReg 10 1).setReg 11 0) (fun t => t.reg 10 == 0xFF && t.reg 15 == 0) = true := by decide

/-- A26. -/
theorem test_subn :
    after (((start 0x8AB7).setReg 10 0).setReg 11 0xFF) (fun t => t.reg 10 == 0xFF && t.reg 15 == 1) = true := by decide

/-- A33. -/
theorem test_shl :
    after (((start 0x8ABE).setReg 10 0xFF).setReg 11 0x40) (fun t => t.reg 10 == 0xFE && t.reg 15 == 1) = true := by decide

/-- A34. -/
theorem test_shl_vy :
    after (((startWith ⟨true, false, false, false⟩ 0x8ABE).setReg 10 0xFF).setReg 11 0x40)
      (fun t => t.reg 10 == 0x80 && t.reg 11 == 0x40 && t.reg 15 == 0) = true := by decide

/-- F16. -/
theorem test_sneReg_goes_on : after ((start 0x9AA0).setReg 10 0x37) (fun t => t.pc == 0x202) = true := by decide

/-- F17. -/
theorem test_sneReg_skips : after (((start 0x9AB0).setReg 10 9).setReg 11 8) (fun t => t.pc == 0x204) = true := by decide

/-- M1. -/
theorem test_ldIndex : after (start 0xAFFF) (fun t => t.index == 0x0FFF && t.pc == 0x202) = true := by decide

/-- F21. -/
theorem test_jpOffset : after ((start 0xBFFF).setReg 0 0xFF) (fun t => t.pc == 0x10FE) = true := by decide

/-- F20. -/
theorem test_jpOffset_vx :
    after (((startWith ⟨false, true, false, false⟩ 0xB300).setReg 0 0xFF).setReg 3 0x10) (fun t => t.pc == 0x310) = true := by decide

/-- A40. -/
theorem test_rnd :
    after ((start 0xCA0F).setRandom [0xA5, 0x11] 0) (fun t => t.reg 10 == 0x05 && t.rndIn == [0x11] && t.draws == 0 && t.pc == 0x202) = true := by
  decide

/-- A41, with no byte supplied: whatever the free byte is, the mask 00 leaves 00, and one byte is drawn (rule R111). -/
theorem test_rnd_free :
    ∃ t, exec (.rnd 10 0x00) ((start 0xCA00).setReg 10 0x77) = .next t ∧ t.reg 10 = 0x00 ∧ t.draws = 1 ∧ t.pc = 0x202 :=
  ⟨_, rfl, by simp [rndWith], rfl, rfl⟩

/-- S3. -/
theorem test_drw_clips :
    after ((((withBytes (start 0xDAB1) 0x300 [0xFF]).setIndex 0x300).setReg 10 0x3C).setReg 11 0x1F)
      (fun t => !t.disp.get 59 31 && t.disp.get 60 31 && t.disp.get 63 31 && !t.disp.get 0 31 && t.reg 15 == 0 && t.pc == 0x202) = true := by decide +kernel

/-- S5. -/
theorem test_drw_collides :
    after (((withBytes (start 0xDAB1) 0x300 [0xFF]).setIndex 0x300).setDisp (Display.clear.set 7 0 true))
      (fun t => t.disp.get 0 0 && t.disp.get 6 0 && !t.disp.get 7 0 && t.reg 15 == 1) = true := by decide +kernel

/-- K3. -/
theorem test_skp : after (((start 0xEA9E).setReg 10 0x0F).setKeys 0x8000) (fun t => t.pc == 0x204) = true := by decide

/-- K4. -/
theorem test_skp_no_key : after ((start 0xEA9E).setReg 10 0x10) (fun t => errCode t.err == 6 && t.pc == 0x200) = true := by decide

/-- K5. -/
theorem test_sknp_down : after (((start 0xEAA1).setReg 10 0x0F).setKeys 0x8000) (fun t => t.pc == 0x202) = true := by decide

/-- K6. -/
theorem test_sknp_up : after ((start 0xEAA1).setReg 10 3) (fun t => t.pc == 0x204) = true := by decide

/-- K16. -/
theorem test_ldFromDt : after ((start 0xFA07).setDt 0x2A) (fun t => t.reg 10 == 0x2A && t.dt == 0x2A && t.pc == 0x202) = true := by decide

/-- K13. -/
theorem test_ldKey_waits : after ((start 0xFA0A).setKprev 8) (fun t => t.pc == 0x200 && t.kprev == 0 && t.reg 10 == 0) = true := by decide

/-- K14. -/
theorem test_ldKey_lowest :
    after (((start 0xFA0A).setKeys 0x8421).setKprev 1) (fun t => t.reg 10 == 5 && t.kprev == 0x8421 && t.pc == 0x202) = true := by decide

/-- K17. -/
theorem test_ldDt : after ((start 0xFA15).setReg 10 0xFF) (fun t => t.dt == 0xFF && t.st == 0 && t.pc == 0x202) = true := by decide

/-- K18. -/
theorem test_ldSt : after ((start 0xFA18).setReg 10 1) (fun t => t.st == 1 && t.dt == 0 && t.pc == 0x202) = true := by decide

/-- M7. -/
theorem test_addIndex_overflow :
    after (((startWith ⟨false, false, false, true⟩ 0xFF1E).setIndex 0xFFFF).setReg 15 0xFF) (fun t => t.index == 0x00FE && t.reg 15 == 1) = true := by
  decide

/-- M6. -/
theorem test_addIndex_threshold :
    after ((((startWith ⟨false, false, false, true⟩ 0xFA1E).setIndex 0x0FFF).setReg 10 1).setReg 15 7)
      (fun t => t.index == 0x1000 && t.reg 15 == 7) = true := by decide

/-- M10. -/
theorem test_ldFont : after ((start 0xFA29).setReg 10 0x1A) (fun t => t.index == 0x0082 && t.pc == 0x202) = true := by decide

/-- M13. -/
theorem test_ldBcd :
    after (((start 0xFA33).setReg 10 0xFF).setIndex 0xFFD)
      (fun t => t.byte 0xFFD == 2 && t.byte 0xFFE == 5 && t.byte 0xFFF == 5 && t.index == 0xFFD && t.pc == 0x202) = true := by decide

/-- M14. -/
theorem test_ldBcd_overrun :
    after (((start 0xFA33).setReg 10 0xFF).setIndex 0xFFE)
      (fun t => errCode t.err == 2 && t.byte 0xFFE == 0 && t.byte 0xFFF == 0 && t.pc == 0x200) = true := by decide

/-- M19. -/
theorem test_storeRegs_increments :
    after ((((startWith ⟨false, false, true, false⟩ 0xF155).setReg 0 1).setReg 1 2).setIndex 0xFFE)
      (fun t => t.byte 0xFFE == 1 && t.byte 0xFFF == 2 && t.index == 0x1000) = true := by decide

/-- M23. -/
theorem test_storeRegs :
    after (((((start 0xF255).setReg 0 0x11).setReg 1 0x22).setReg 2 0x33).setIndex 0x300)
      (fun t => Memory.readBytes t.mem 0x300 4 == [0x11, 0x22, 0x33, 0x00] && t.index == 0x300 && t.pc == 0x202) = true := by decide

/-- M26. -/
theorem test_loadRegs :
    after ((start 0xFF65).setIndex 0x009B)
      (fun t => t.v.toList == [0xF0, 0x80, 0xF0, 0x80, 0x80] ++ List.replicate 11 0x00 && t.pc == 0x202) = true := by decide

/-- M25. -/
theorem test_loadRegs_overrun : after ((start 0xF065).setIndex 0x1000) (fun t => errCode t.err == 2 && t.pc == 0x200) = true := by decide

/-- E9. -/
theorem test_unknown_opcode :
    after (start 0x5123) (fun t => t == ((start 0x5123).setPc 0x202).setRomOpen false) = true ∧ strobe (start 0x5123) = some 0x5123 := by
  decide

/-- F24. -/
theorem test_fetch_overrun : after ((State.resetWith noQuirks).setPc 0xFFF) (fun t => errCode t.err == 4 && t.pc == 0xFFF) = true := by decide

/-! Events. -/

/-- K19. -/
theorem test_tick :
    after ((((State.resetWith noQuirks).setDt 2).setSt 1).setPending [.tick]) (fun t => t.dt == 1 && t.st == 0 && t.pc == 0x200) = true := by
  decide

/-- K21. -/
theorem test_keypad_update :
    after ((((State.resetWith noQuirks).setKeys 0xFFFF).setKprev 0x00F0).setPending [.keypadUpdate 0x1234])
      (fun t => t.keys == 0x1234 && t.kprev == 0x00F0) = true := by decide

/-- L1. -/
theorem test_reset :
    after (((((start 0x1200).setErr (some .memoryOverrun)).setReg 3 9).setDt 4).setPending [.reset noQuirks])
      (fun t => t == State.resetWith noQuirks) = true := by decide

/-- L5. -/
theorem test_load_rom :
    after ((State.resetWith noQuirks).setPending [.loadRom [0x12, 0x00]])
      (fun t => t.byte 0x200 == 0x12 && t.byte 0x201 == 0x00 && t.quiescent && !t.romOpen) = true := by decide

/-- L3. -/
theorem test_load_rom_too_large :
    after ((State.resetWith noQuirks).setPending [.loadRom (List.replicate 3585 0xAA)]) (fun t => errCode t.err == 3 && t.mem == []) = true := by
  decide +kernel

/-- R192, U14: a second `LoadROM` is refused. -/
theorem test_load_rom_twice : loadRom [0x12] ((State.resetWith noQuirks).setRomOpen false) = .refused .loadRomNotAfterReset := rfl

/-- Log entry 22: the derived law 2 of rule R139 against rule R136. A lit cell under a one-bit sprite: the first draw collides and turns it
off, the second turns it on and does NOT collide, although the clipped mask is not empty. -/
theorem test_second_draw_of_a_lit_cell :
    after (((withBytes (start 0xDAB1) 0x300 [0x80]).setIndex 0x300).setDisp (Display.clear.set 0 0 true))
      (fun t => t.reg 15 == 1 && !t.disp.get 0 0 && after (t.setPc 0x200) (fun u => u.reg 15 == 0 && u.disp.get 0 0)) = true := by decide +kernel

/-! Witnesses: for every statement with hypotheses a concrete state and operands that meet them together, at the boundaries of their ranges. -/

/-- Reset with every quirk off. -/
def base : State := State.resetWith noQuirks

/-- `base` with the full stack, every return address the largest a call pushes, and the largest `PC`. -/
def fullStack : State := (base.setStack (List.replicate 16 0x1000)).setPc 0x10FE

theorem witness_EncodeOfDecode : decodeWord 0xD125 = .ok (.drw 1 2 5) := by decide

theorem witness_OpcodeMap : rowOf (.drw 0 0 0) ∈ opcodeTable ∧ (0xD125 : Word) &&& 0xF000 = 0xD000 ∧ rowOf (.drw 0 0 0) = ⟨"DRW_VX__VY__N", 0xF000, 0xD000⟩ := by
  decide

theorem witness_UnknownWords :
    (unknownDigits 0x00E1 ∧ unknownDigits 0x5121 ∧ unknownDigits 0x8AB8 ∧ unknownDigits 0x8ABD ∧ unknownDigits 0x8ABF) ∧
    (unknownDigits 0x9AB1 ∧ unknownDigits 0xE19F ∧ unknownDigits 0xF166 ∧ unknownDigits 0x0FFF) ∧
    ¬unknownDigits 0x00E0 ∧ ¬unknownDigits 0x8ABE ∧ ¬unknownDigits 0xF165 ∧ ¬unknownDigits 0x1000 := by
  simp [unknownDigits, digit, lowThree, lowTwo]

theorem witness_Extractor : (12 ≤ 16 ∧ 12 < 16 ∧ 16 ≤ 16) ∧ extract (0xD125 : Word) 12 16 = some 0xD ∧ extract (0xD125 : Word) 15 15 = some 0 := by decide

theorem witness_Composer : fetch 0xFFE base = .ok 0x0000 ∧ fetch 0x050 base = .ok 0xF090 := by decide

theorem witness_StepRuns_cycle :
    (start 0x1200).err = none ∧ (start 0x1200).pc.toNat + 1 < 4096 ∧ (start 0x1200).pending = [] ∧
    decode [(start 0x1200).byte 0x200, (start 0x1200).byte 0x201] = .ok (.jp 0x200, []) := by decide

theorem witness_StepRuns_pendingStep :
    ((base.setPc 0xFFE).withFetchWord 16 0x6A07).pc.toNat + 1 < 4096 ∧
    decode [((base.setPc 0xFFE).withFetchWord 16 0x6A07).byte 0xFFE, ((base.setPc 0xFFE).withFetchWord 16 0x6A07).byte 0xFFF] =
      .ok (.ldImm 10 7, []) ∧
    (((base.setPc 0xFFE).withFetchWord 16 0x6A07).setPending [.step, .tick]).pending = .step :: [.tick] := by decide

theorem witness_UnknownOpcode :
    (start 0x5123).err = none ∧ (start 0x5123).pending = [] ∧ fetch (start 0x5123).pc.toNat (start 0x5123) = .ok 0x5123 ∧
    (∀ r ∈ opcodeTable, (0x5123 : Word) &&& r.mask ≠ r.pattern) ∧ fetch (start 0x1200).pc.toNat (start 0x1200) = .ok 0x1200 ∧
    decodeWord 0x1200 = .ok (.jp 0x200) := by decide

theorem witness_FetchBeyond :
    (base.setPc 0xFFF).err = none ∧ (base.setPc 0xFFF).pending = [] ∧ 0xFFF ≤ (base.setPc 0xFFF).pc.toNat ∧
    0xFFF ≤ (base.setPc 0x10FE).pc.toNat := by decide

theorem witness_HaltedUntilReset :
    ((base.setErr (some .stackUnderflow)).setPending [.tick, .reset noQuirks]).err ≠ none ∧
    ((base.setErr (some .stackUnderflow)).setPending [.tick]).pending = .tick :: [] ∧ (base.setErr (some .stackUnderflow)).pending = [] ∧
    ((base.setErr (some .stackUnderflow)).setPending [.reset noQuirks]).pending = .reset noQuirks :: [] := by decide

theorem witness_FatalErrorsArePrecise :
    ∃ t, (start 0x00EE).err = none ∧ step (start 0x00EE) = .next t ∧ t.err ≠ none :=
  ⟨(start 0x00EE).setRomOpen false |>.setErr (some .stackUnderflow), rfl, rfl, by decide⟩

theorem step_tooLargeRom (bytes : List Byte) (h : romFits bytes = false) :
    step (base.setPending [.loadRom bytes]) = .next (base.setErr (some .romTooLarge)) := by
  simp [step, perform, loadRom, h, base, State.resetWith, State.setPending, causeOf]

theorem witness_FatalErrorsArePrecise_rom :
    ∃ t, step (base.setPending [.loadRom (List.replicate 3585 0)]) = .next t ∧ t.err ≠ none :=
  ⟨_, step_tooLargeRom _ (by rw [romFits, List.length_replicate]; decide), by decide⟩

theorem witness_ErrorsExactly_stack :
    errorOf base .ret = some .stackUnderflow ∧ errorOf fullStack .ret = none ∧ errorOf fullStack (.call 0) = some .stackOverflow ∧
    errorOf (base.setStack (List.replicate 15 0)) (.call 0) = none ∧ base.err = none := by decide

theorem witness_ErrorsExactly_memory :
    errorOf (base.setIndex 0xFFD) (.ldBcd 0) = none ∧ errorOf (base.setIndex 0xFFE) (.ldBcd 0) = some .memoryOverrun ∧
    errorOf (base.setIndex 0xFF0) (.storeRegs 15) = none ∧ errorOf (base.setIndex 0xFF1) (.storeRegs 15) = some .memoryOverrun ∧
    errorOf (base.setIndex 0xFFF) (.loadRegs 0) = none ∧ errorOf (base.setIndex 0x1000) (.loadRegs 0) = some .memoryOverrun ∧
    errorOf (base.setIndex 0xFFFF) (.drw 0 0 0) = none ∧ errorOf (base.setIndex 0xFFF) (.drw 0 0 1) = none ∧
    errorOf (base.setIndex 0xFFF) (.drw 0 0 2) = some .memoryOverrun := by decide

theorem witness_ErrorsExactly_keys :
    errorOf (base.setReg 3 15) (.skp 3) = none ∧ errorOf (base.setReg 3 16) (.skp 3) = some .keyIndexRange ∧
    errorOf (base.setReg 3 15) (.sknp 3) = none ∧ errorOf (base.setReg 3 16) (.sknp 3) = some .keyIndexRange := by decide

theorem witness_PcAfter : base.err = none ∧ pcAfter (start 0x3F00) (.seImm 15 0) = 0x204 ∧ pcAfter (start 0x3F01) (.seImm 15 1) = 0x202 := by decide

theorem witness_Invariant_reset : Inv base ∧ step base = .next (base.setRomOpen false).advance :=
  ⟨⟨by decide, by simp [base, State.sp, State.resetWith], by simp [base, State.resetWith], by simp [base, State.resetWith]⟩, rfl⟩

theorem witness_Invariant_bounds : Inv fullStack ∧ step fullStack = .next (fullStack.setErr (some .fetchOverrun)) :=
  ⟨⟨by decide, by simp [fullStack, State.sp, stackDepth], by simp [fullStack], by simp [fullStack]⟩, rfl⟩

theorem witness_PlainAlu : plainAlu base (.ldImm 15 0xAB) = some (15, 0xAB) ∧ plainAlu (base.setReg 10 1) (.addImm 10 0xFF) = some (10, 0) ∧
    plainAlu (base.setReg 3 7) (.xorReg 3 3) = some (3, 0) := by decide

theorem witness_FlagAlu : flagAlu ((base.setReg 15 3).setReg 11 2) (.addReg 15 11) = some (15, 5, 0) ∧
    flagAlu ((base.setReg 10 0).setReg 11 1) (.subReg 10 11) = some (10, 0xFF, 0) ∧ flagAlu (base.setReg 15 0xC0) (.shl 15 11) = some (15, 0x80, 1) := by
  decide

theorem witness_RandomByte : (base.setRandom [0xA5] 0).rndIn = 0xA5 :: [] ∧ base.rndIn = [] := by decide

theorem witness_JumpLoadsPc : (start 0x1200).pc.toNat = (0x200 : Addr12).toNat := by decide

theorem witness_CallPushes : (base.setStack (List.replicate 15 0)).sp < 16 ∧ 16 ≤ fullStack.sp := by decide

theorem witness_ReturnPops :
    (base.setStack [0x0456, 0x0202]).stack = 0x0456 :: [0x0202] ∧ base.stack = [] ∧ base.sp < 16 ∧
    ∃ u, exec (.call 0x300) base = .next u :=
  ⟨by decide, by decide, by decide, _, rfl⟩

theorem witness_Skips : skipTaken base (.seImm 15 0) = some true ∧ skipTaken base (.sneImm 15 0) = some false ∧
    skipTaken base (.seReg 1 2) = some true ∧ skipTaken base (.sneReg 1 2) = some false ∧ skipTaken base (.seImm 15 1) = some false ∧
    digit 0x5AB1 3 = 0x5 ∧ digit 0x5AB1 0 ≠ 0 := by decide

theorem witness_AddToIndex : (base.setIndex 0xFFFF).index.toNat + ((base.setIndex 0xFFFF).reg 0).toNat = 0xFFFF ∧
    0xFFFF < ((base.setReg 0 1).setIndex 0xFFFF).index.toNat + (((base.setReg 0 1).setIndex 0xFFFF).reg 0).toNat := by decide

theorem witness_Bcd : Memory.wf (base.setIndex 0xFFD).mem = true ∧ (base.setIndex 0xFFD).index.toNat + 2 ≤ 0xFFF ∧
    0xFFF < (base.setIndex 0xFFE).index.toNat + 2 := by decide

theorem witness_BlockMoves : Memory.wf (base.setIndex 0xFF0).mem = true ∧ (base.setIndex 0xFF0).index.toNat + (15 : Nibble).val ≤ 0xFFF ∧
    0xFFF < (base.setIndex 0xFF1).index.toNat + (15 : Nibble).val := by decide

theorem witness_BlockLoadUndoesBlockStore : Memory.wf (base.setIndex 0xFFF).mem = true ∧ (base.setIndex 0xFFF).index.toNat + (0 : Nibble).val ≤ 0xFFF ∧
    ∃ t, exec (.storeRegs 0) (base.setIndex 0xFFF) = .next t :=
  ⟨by decide, by decide, _, rfl⟩

theorem witness_FetchSees : Memory.wf (withBytes base 0x300 [1, 2]).mem = true ∧ 0xFFE + 1 < 4096 := by decide

theorem witness_PlacedWord : Memory.wf base.mem = true ∧ decodeTableWord 16 0x6A07 = some (.ldImm 10 7) ∧ base.pc.toNat + 1 < 4096 ∧
    ((base.setPc 0xFFF).withFetchWord 16 0x6A07).pc = 0x200 := by decide

theorem witness_RangeCheck : rangeError 0xFFF 1 = none ∧ rangeError 0xFFF 2 ≠ none ∧ rangeError 0xFFFF 0 = none := by decide

theorem witness_Draw_inMemory : spriteInMemory (base.setIndex 0xFFFF) 0 ∧ spriteInMemory (base.setIndex 0xFF1) 15 ∧ ¬spriteInMemory (base.setIndex 0xFF2) 15 := by
  unfold spriteInMemory
  decide

/-- One lit cell under a one-bit sprite. -/
def litCell : State := ((withBytes base 0x300 [0x80]).setIndex 0x300).setDisp (Display.clear.set 0 0 true)

theorem witness_Draw_collides : ∃ x y, x < 64 ∧ y < 32 ∧ litCell.disp.get x y = true ∧ covered litCell 0 0 1 x y = true :=
  ⟨0, 0, by decide⟩

theorem witness_Draw_noCollision : ∀ x y, x < 64 → y < 32 → base.disp.get x y = true → covered base 0 0 1 x y = false := by
  intro x y _ _ h
  have : base.disp.get x y = false := Display.get_clear x y
  simp [this] at h

theorem witness_DrawingTwice :
    ∃ t, spriteInMemory (base.setIndex 0x050) 5 ∧ exec (.drw 0 1 5) (base.setIndex 0x050) = .next t ∧ t.reg 0 = (base.setIndex 0x050).reg 0 ∧
      t.reg 1 = (base.setIndex 0x050).reg 1 :=
  ⟨_, by unfold spriteInMemory; decide, rfl, by decide, by decide⟩

theorem witness_DrawingTwice_secondCollides : ∃ t, exec (.drw 0 1 1) (litCell.setDisp Display.clear) = .next t ∧ t.reg 15 = 0 :=
  ⟨_, rfl, by decide +kernel⟩

theorem witness_DrawAfterClear : spriteInMemory litCell 1 ∧ ∃ t, exec .cls litCell = .next t :=
  ⟨by unfold spriteInMemory; decide, _, rfl⟩

theorem witness_KeySkips : ((base.setReg 10 15).reg 10).toNat ≤ 15 ∧ 15 < ((base.setReg 10 16).reg 10).toNat := by decide

theorem witness_KeyWait_waits :
    ∀ k, k < 16 → ((base.setKeys 8).setKprev 8).keys.getLsbD k = true → ((base.setKeys 8).setKprev 8).kprev.getLsbD k = true := by
  intro k _ h
  exact h

theorem witness_KeyWait_takes :
    5 < 16 ∧ ((base.setKeys 0x8421).setKprev 1).keys.getLsbD 5 = true ∧ ((base.setKeys 0x8421).setKprev 1).kprev.getLsbD 5 = false ∧
    ∀ j, j < 5 → ((base.setKeys 0x8421).setKprev 1).keys.getLsbD j = true → ((base.setKeys 0x8421).setKprev 1).kprev.getLsbD j = true := by
  decide

theorem witness_Tick : (base.setPending [.tick, .step]).err = none ∧ (base.setPending [.tick, .step]).pending = .tick :: [.step] ∧
    (base.setErr (some .memoryOverrun)).err ≠ none := by decide

theorem witness_Tick_separation : (∃ t, exec (.ldDt 3) (base.setReg 3 9) = .next t ∧ t.dt ≠ (base.setReg 3 9).dt) ∧
    (∃ t, perform .tick (base.setSt 1) = .next t ∧ t.st ≠ (base.setSt 1).st) :=
  ⟨⟨_, rfl, by decide⟩, _, rfl, by decide⟩

theorem witness_KeypadUpdate : (base.setPending [.keypadUpdate 0x1234]).pending = .keypadUpdate 0x1234 :: [] ∧
    (base.setErr (some .memoryOverrun)).err ≠ none := by decide

theorem witness_Reset : (litCell.setPending [.reset noQuirks, .step]).pending = .reset noQuirks :: [.step] := by decide

theorem witness_LoadRom : base.err = none ∧ base.romOpen = true ∧ Memory.wf base.mem = true ∧ (List.replicate 3584 (0xAA : Byte)).length ≤ 3584 ∧
    3584 < (List.replicate 3585 (0xAA : Byte)).length ∧ (base.setRomOpen false).romOpen = false := by
  rw [List.length_replicate, List.length_replicate]
  decide

theorem witness_Quiescent : (start 0x1200).quiescent = true ∧ (start 0x1200).pending = [] := by decide

theorem witness_IgnoreWhatTheyDoNotRead : (∃ t, exec (.ldFromDt 0) litCell = .next t) ∧ (∃ t, exec (.drw 0 0 1) litCell = .next t) :=
  ⟨⟨_, rfl⟩, _, rfl⟩

end Sys2Proof.Tests
end

section
/-! SUPPORT. Words read nibble by nibble, masks included; the composer and the extractor as numbers; the rows of the opcode map against the
decoder; and the statements of the family 30_encoding.md that rest on them (rules R61, R62, R63, R67). -/

namespace Sys2Proof.Encoding

open Sys2Proof.Machine

/-! Words as four nibbles. -/

theorem fieldsOf_op (w : Word) : (fieldsOf w).op = nibbleAt w 12 := rfl

theorem fieldsOf_x (w : Word) : (fieldsOf w).x = nibbleAt w 8 := rfl

theorem fieldsOf_y (w : Word) : (fieldsOf w).y = nibbleAt w 4 := rfl

theorem fieldsOf_n (w : Word) : (fieldsOf w).n = nibbleAt w 0 := rfl

theorem nibbleAt_ofNat_val (k lo : Nat) : (nibbleAt (BitVec.ofNat 16 k) lo).val = k % 65536 / 2 ^ lo % 16 := by
  rw [nibbleAt_val, BitVec.toNat_ofNat]

theorem nibbleAt_and_val (w m : Word) (lo : Nat) :
    (nibbleAt (w &&& m) lo).val = (nibbleAt w lo).val &&& (nibbleAt m lo).val := by
  simp only [nibbleAt_val, BitVec.toNat_and, Nat.and_div_two_pow]
  exact Nat.and_mod_two_pow (n := 4)

theorem nibble_and_ones (a : Nibble) : a.val &&& 15 = a.val := by
  rw [Nat.and_two_pow_sub_one_eq_mod a.val 4]
  exact Nat.mod_eq_of_lt a.isLt

theorem word_eq_iff_nibbles (w p : Word) :
    w = p ↔ (nibbleAt w 12).val = (nibbleAt p 12).val ∧ (nibbleAt w 8).val = (nibbleAt p 8).val ∧
      (nibbleAt w 4).val = (nibbleAt p 4).val ∧ (nibbleAt w 0).val = (nibbleAt p 0).val := by
  have := w.isLt
  have := p.isLt
  simp only [nibbleAt_val, ← BitVec.toNat_inj]
  omega

theorem fieldsOf_nn_eq_iff (w : Word) (b : Byte) :
    (fieldsOf w).nn = b ↔ (nibbleAt w 4).val = b.toNat / 16 ∧ (nibbleAt w 0).val = b.toNat % 16 := by
  have := b.isLt
  rw [← BitVec.toNat_inj, fieldsOf_nn, nibbleAt_val, nibbleAt_val]
  omega

theorem fieldsOf_nnn_eq_iff (w : Word) (a : Addr12) :
    (fieldsOf w).nnn = a ↔ (nibbleAt w 8).val = a.toNat / 256 ∧ (nibbleAt w 4).val = a.toNat / 16 % 16 ∧
      (nibbleAt w 0).val = a.toNat % 16 := by
  have := a.isLt
  rw [← BitVec.toNat_inj, fieldsOf_nnn, nibbleAt_val, nibbleAt_val, nibbleAt_val]
  omega

/-! The composer and its use (rules R61, R63). -/

theorem compose_toNat {m n : Nat} (a : BitVec m) (b : BitVec n) : (compose a b).toNat = a.toNat * 2 ^ n + b.toNat := by
  rw [compose, BitVec.toNat_append, ← Nat.shiftLeft_add_eq_or_of_lt b.isLt, Nat.shiftLeft_eq]

theorem compose_bytes_toNat (b0 b1 : Byte) : BitVec.toNat (w := 16) (compose b0 b1) = b0.toNat * 256 + b1.toNat :=
  compose_toNat b0 b1

theorem fetch_eq_compose {a : Nat} {s : State} {w : Word} (h : fetch a s = .ok w) : w = compose (s.byte a) (s.byte (a + 1)) := by
  obtain ⟨-, hf⟩ | ⟨-, hf⟩ := fetch_cases a s
  · cases hf.symm.trans h
  · cases hf.symm.trans h
    rfl

/-- The six fields are the views of one word, so they pass the check on their overlaps (rule R61). -/
theorem fieldsOf_wf (w : Word) : (fieldsOf w).wf = true := by
  have hnn : (fieldsOf w).nn.toNat = 16 * (fieldsOf w).y.val + (fieldsOf w).n.val := by
    rw [fieldsOf_nn, fieldsOf_y, fieldsOf_n, nibbleAt_val, nibbleAt_val]
    omega
  have hnnn : (fieldsOf w).nnn.toNat = 256 * (fieldsOf w).x.val + (fieldsOf w).nn.toNat := by
    rw [fieldsOf_nnn, fieldsOf_x, fieldsOf_nn, nibbleAt_val]
    omega
  simp [Fields.wf, ← hnn, ← hnnn]

/-- Settles O9: the composer appends, and a fetch that succeeds composes the two bytes at `PC`. -/
theorem composerPutsTheFirstOperandHigh : Obligations.ComposerPutsTheFirstOperandHigh := by
  unfold Obligations.ComposerPutsTheFirstOperandHigh
  exact ⟨fun _ _ => compose_toNat, fun _ _ => fetch_eq_compose⟩

/-- Settles O7: each field is a quotient and a remainder of the composed number `b0 * 256 + b1`. -/
theorem fieldsAreViewsOfTheTwoBytes : Obligations.FieldsAreViewsOfTheTwoBytes := by
  unfold Obligations.FieldsAreViewsOfTheTwoBytes
  intro b0 b1
  have h0 := b0.isLt
  have h1 := b1.isLt
  have hw := compose_bytes_toNat b0 b1
  refine ⟨?_, ?_, ?_, ?_, ?_, ?_, fieldsOf_wf _⟩
  · rw [fieldsOf_op, nibbleAt_val, hw]; omega
  · rw [fieldsOf_x, nibbleAt_val, hw]; omega
  · rw [fieldsOf_y, nibbleAt_val, hw]; omega
  · rw [fieldsOf_n, nibbleAt_val, hw]; omega
  · rw [← BitVec.toNat_inj, fieldsOf_nn, hw]; omega
  · rw [fieldsOf_nnn, hw]; omega

/-! The extractor (rule R62). -/

theorem validRange_iff (W start stop : Nat) : validRange W start stop = true ↔ start ≤ stop ∧ start < W ∧ stop ≤ W := by
  simp [validRange, and_assoc]

theorem extract_eq_none_iff {W : Nat} (w : BitVec W) (start stop : Nat) :
    extract w start stop = none ↔ start > stop ∨ start ≥ W ∨ stop > W := by
  simp only [extract, ite_eq_right_iff, reduceCtorEq, imp_false, validRange_iff]
  omega

theorem extract_eq_some {W : Nat} (w : BitVec W) {start stop : Nat} (h1 : start ≤ stop) (h2 : start < W) (h3 : stop ≤ W) :
    extract w start stop = some (w.toNat / 2 ^ start % 2 ^ (stop - start)) := by
  rw [extract, if_pos ((validRange_iff W start stop).mpr ⟨h1, h2, h3⟩), Nat.shiftRight_eq_div_pow]

theorem extract_whole {W : Nat} (w : BitVec W) (h : 0 < W) : extract w 0 W = some w.toNat := by
  rw [extract_eq_some w (Nat.zero_le W) h le_rfl, pow_zero, Nat.div_one, Nat.sub_zero, Nat.mod_eq_of_lt w.isLt]

theorem extract_bit {W : Nat} (w : BitVec W) {start : Nat} (h : start < W) :
    extract w start (start + 1) = some (if w.getLsbD start then 1 else 0) := by
  rw [extract_eq_some w (Nat.le_add_right start 1) h h, Nat.add_sub_cancel_left, pow_one, BitVec.getLsbD,
    Nat.testBit_eq_decide_div_mod_eq]
  obtain hbit | hbit := Nat.mod_two_eq_zero_or_one (w.toNat / 2 ^ start) <;> simp [hbit]

theorem extract_empty {W : Nat} (w : BitVec W) {start : Nat} (h : start < W) : extract w start start = some 0 := by
  rw [extract_eq_some w le_rfl h h.le, Nat.sub_self, pow_zero, Nat.mod_one]

/-- A nibble is the four-bit range at its place. -/
theorem extract_nibble (w : Word) {lo : Nat} (h : lo + 4 ≤ 16) : extract w lo (lo + 4) = some (nibbleAt w lo).val := by
  rw [extract_eq_some w (by omega) (by omega) h, nibbleAt_val, Nat.add_sub_cancel_left]
  rfl

/-- Settles O8: all clauses come from the check of the range and the formula; the fields are four nibbles, `NN` and `NNN`. -/
theorem extractorTakesTheHalfOpenRange : Obligations.ExtractorTakesTheHalfOpenRange := by
  unfold Obligations.ExtractorTakesTheHalfOpenRange
  refine ⟨fun W w start stop => ⟨extract_eq_none_iff w start stop, extract_eq_some w, extract_whole w, extract_bit w, extract_empty w⟩,
    fun w => ⟨extract_nibble w (by decide), extract_nibble w (by decide), extract_nibble w (by decide), extract_nibble w (by decide), ?_, ?_⟩⟩
  · rw [extract_eq_some w (by decide) (by decide) (by decide), fieldsOf_nn, pow_zero, Nat.div_one]
    rfl
  · rw [extract_eq_some w (by decide) (by decide) (by decide), fieldsOf_nnn, pow_zero, Nat.div_one]
    rfl

/-! The rows of the opcode map and the decoder (rules R66, R67). -/

theorem row_accepts_iff (r : Row) (w : Word) : r.accepts w = true ↔ w &&& r.mask = r.pattern := beq_iff_eq

/-- A row accepts a word when each nibble, under the mask's nibble, is the pattern's: with the literals of `rowOf` this says which nibbles
are fixed and at what value. -/
theorem row_accepts_iff_nibbles (r : Row) (w : Word) :
    r.accepts w = true ↔
      (nibbleAt w 12).val &&& (nibbleAt r.mask 12).val = (nibbleAt r.pattern 12).val ∧
      (nibbleAt w 8).val &&& (nibbleAt r.mask 8).val = (nibbleAt r.pattern 8).val ∧
      (nibbleAt w 4).val &&& (nibbleAt r.mask 4).val = (nibbleAt r.pattern 4).val ∧
      (nibbleAt w 0).val &&& (nibbleAt r.mask 0).val = (nibbleAt r.pattern 0).val := by
  simp only [row_accepts_iff, word_eq_iff_nibbles, nibbleAt_and_val]

theorem rowOf_mem_opcodeTable (i : Instr) : rowOf i ∈ opcodeTable := by
  cases i <;> simp [opcodeTable, tableInstrs, rowOf]

section
variable {w : Word} {i : Instr}

theorem accepts_of_decode0 (hop : (nibbleAt w 12).val = 0x0) (h : decode0 w (fieldsOf w) = .ok i) : (rowOf i).accepts w = true := by
  unfold decode0 at h
  simp only [fieldsOf_nnn_eq_iff] at h
  split_ifs at h with hkey hkey <;> cases h <;>
    simp [row_accepts_iff_nibbles, rowOf, nibbleAt_ofNat_val, hop, hkey]

theorem accepts_of_decode8 (hop : (nibbleAt w 12).val = 0x8) (h : decode8 w (fieldsOf w) = .ok i) : (rowOf i).accepts w = true := by
  unfold decode8 at h
  rw [fieldsOf_n] at h
  split at h <;> rename_i hkey <;> cases h <;>
    simp [row_accepts_iff_nibbles, rowOf, nibbleAt_ofNat_val, hop, hkey]

theorem accepts_of_decodeE (hop : (nibbleAt w 12).val = 0xE) (h : decodeE w (fieldsOf w) = .ok i) : (rowOf i).accepts w = true := by
  unfold decodeE at h
  simp only [fieldsOf_nn_eq_iff] at h
  split_ifs at h with hkey hkey <;> cases h <;>
    simp [row_accepts_iff_nibbles, rowOf, nibbleAt_ofNat_val, hop, hkey]

theorem accepts_of_decodeF (hop : (nibbleAt w 12).val = 0xF) (h : decodeF w (fieldsOf w) = .ok i) : (rowOf i).accepts w = true := by
  unfold decodeF at h
  simp only [fieldsOf_nn_eq_iff] at h
  split_ifs at h with hkey hkey hkey hkey hkey hkey hkey hkey hkey <;> cases h <;>
    simp [row_accepts_iff_nibbles, rowOf, nibbleAt_ofNat_val, hop, hkey]

theorem accepts_of_decodeWord (h : decodeWord w = .ok i) : (rowOf i).accepts w = true := by
  unfold decodeWord decodeFields at h
  rw [fieldsOf_op, fieldsOf_n] at h
  split at h <;> rename_i hop
  case h_1 => exact accepts_of_decode0 hop h
  case h_9 => exact accepts_of_decode8 hop h
  case h_15 => exact accepts_of_decodeE hop h
  case h_16 => exact accepts_of_decodeF hop h
  case h_6 | h_10 =>
    split_ifs at h with hkey
    cases h
    simp [row_accepts_iff_nibbles, rowOf, nibbleAt_ofNat_val, hop, hkey]
  all_goals cases h <;> simp [row_accepts_iff_nibbles, rowOf, nibbleAt_ofNat_val, hop]

/-- The row fixes exactly the primary key and, in the families that have one, the secondary key (rule R66): so the decoder takes the branch
of the row, whatever the other nibbles are. -/
theorem decodeWord_of_accepts (h : (rowOf i).accepts w = true) : ∃ j, decodeWord w = .ok j ∧ rowOf j = rowOf i := by
  rw [row_accepts_iff_nibbles] at h
  cases i with
  | cls | ret =>
    simp [rowOf, nibbleAt_ofNat_val, nibble_and_ones] at h
    simp [decodeWord, decodeFields, decode0, fieldsOf_op, fieldsOf_nnn_eq_iff, h, rowOf]
  | jp _ | call _ | ldIndex _ | jpOffset _ | seImm _ _ | sneImm _ _ | ldImm _ _ | addImm _ _ | rnd _ _ | drw _ _ _ =>
    simp [rowOf, nibbleAt_ofNat_val, nibble_and_ones] at h
    simp [decodeWord, decodeFields, fieldsOf_op, h, rowOf]
  | seReg _ _ | sneReg _ _ =>
    simp [rowOf, nibbleAt_ofNat_val, nibble_and_ones] at h
    simp [decodeWord, decodeFields, fieldsOf_op, fieldsOf_n, h, rowOf]
  | ldReg _ _ | orReg _ _ | andReg _ _ | xorReg _ _ | addReg _ _ | subReg _ _ | shr _ _ | subn _ _ | shl _ _ =>
    simp [rowOf, nibbleAt_ofNat_val, nibble_and_ones] at h
    simp [decodeWord, decodeFields, decode8, fieldsOf_op, fieldsOf_n, h, rowOf]
  | skp _ | sknp _ =>
    simp [rowOf, nibbleAt_ofNat_val, nibble_and_ones] at h
    simp [decodeWord, decodeFields, decodeE, fieldsOf_op, fieldsOf_nn_eq_iff, h, rowOf]
  | ldFromDt _ | ldKey _ | ldDt _ | ldSt _ | addIndex _ | ldFont _ | ldBcd _ | storeRegs _ | loadRegs _ =>
    simp [rowOf, nibbleAt_ofNat_val, nibble_and_ones] at h
    simp [decodeWord, decodeFields, decodeF, fieldsOf_op, fieldsOf_nn_eq_iff, h, rowOf]

end

/-- The same for a row taken from the opcode map. -/
theorem decodeWord_of_mem_opcodeTable {w : Word} {r : Row} (hr : r ∈ opcodeTable) (h : r.accepts w = true) :
    ∃ i, decodeWord w = .ok i ∧ rowOf i = r := by
  obtain ⟨i, -, rfl⟩ := List.mem_map.mp hr
  exact decodeWord_of_accepts h

/-- No word matches two rows: it would decode to an instruction of each, and decoding is a function. -/
theorem opcodeTable_row_unique {w : Word} {r r' : Row} (hr : r ∈ opcodeTable) (hr' : r' ∈ opcodeTable)
    (h : r.accepts w = true) (h' : r'.accepts w = true) : r = r' := by
  obtain ⟨i, hi, rfl⟩ := decodeWord_of_mem_opcodeTable hr h
  obtain ⟨j, hj, rfl⟩ := decodeWord_of_mem_opcodeTable hr' h'
  cases hi.symm.trans hj
  rfl

/-- Settles O3: the decoder's branches and the rows of the map fix the same nibbles. -/
theorem opcodeMapDecidesTheInstruction : Obligations.OpcodeMapDecidesTheInstruction := by
  unfold Obligations.OpcodeMapDecidesTheInstruction
  simp only [← row_accepts_iff]
  exact ⟨rfl, fun _ i h => ⟨rowOf_mem_opcodeTable i, accepts_of_decodeWord h⟩, fun _ _ => decodeWord_of_mem_opcodeTable,
    fun _ _ _ => opcodeTable_row_unique⟩

end Sys2Proof.Encoding
end

section
/-! SUPPORT. The decoder against the digits of a word, for every instruction (rules R66, R67): what a statement about an encoding cites. -/

namespace Sys2Proof.Encoding

open Sys2Proof.Machine Sys2Proof.Claims

section
variable {w : Word} {i : Instr}

/-! The digits and the low parts of a word are its fields. -/

@[simp] theorem digit_three (w : Word) : digit w 3 = (fieldsOf w).op.val := (nibbleAt_val w 12).symm

@[simp] theorem digit_two (w : Word) : digit w 2 = (fieldsOf w).x.val := (nibbleAt_val w 8).symm

@[simp] theorem digit_one (w : Word) : digit w 1 = (fieldsOf w).y.val := (nibbleAt_val w 4).symm

@[simp] theorem digit_zero (w : Word) : digit w 0 = (fieldsOf w).n.val := (nibbleAt_val w 0).symm

@[simp] theorem lowTwo_eq (w : Word) : lowTwo w = (fieldsOf w).nn.toNat := (fieldsOf_nn w).symm

@[simp] theorem lowThree_eq (w : Word) : lowThree w = (fieldsOf w).nnn.toNat := (fieldsOf_nnn w).symm

/-- The two words of family 0 are fixed as a whole: their `NNN` under the digit 0. -/
theorem toNat_eq_iff_of_op_zero (hop : (fieldsOf w).op.val = 0x0) (a : Addr12) : w.toNat = a.toNat ↔ (fieldsOf w).nnn = a := by
  have := w.isLt
  rw [fieldsOf_op, nibbleAt_val] at hop
  rw [← BitVec.toNat_inj, fieldsOf_nnn]
  omega

theorem spelled_of_decode0 (hop : (fieldsOf w).op.val = 0x0) (h : decode0 w (fieldsOf w) = .ok i) : spelled i w := by
  unfold decode0 at h
  split_ifs at h with hkey hkey <;> cases h <;> exact (toNat_eq_iff_of_op_zero hop _).mpr hkey

theorem spelled_of_decode8 (hop : (fieldsOf w).op.val = 0x8) (h : decode8 w (fieldsOf w) = .ok i) : spelled i w := by
  unfold decode8 at h
  split at h <;> rename_i hkey <;> cases h <;>
    simp [spelled, hop, hkey]

theorem spelled_of_decodeE (hop : (fieldsOf w).op.val = 0xE) (h : decodeE w (fieldsOf w) = .ok i) : spelled i w := by
  unfold decodeE at h
  split_ifs at h with hkey hkey <;> cases h <;> simp [spelled, hop, hkey]

theorem spelled_of_decodeF (hop : (fieldsOf w).op.val = 0xF) (h : decodeF w (fieldsOf w) = .ok i) : spelled i w := by
  unfold decodeF at h
  split_ifs at h with hkey hkey hkey hkey hkey hkey hkey hkey hkey <;> cases h <;>
    simp [spelled, hop, hkey]

theorem spelled_of_decodeWord (h : decodeWord w = .ok i) : spelled i w := by
  unfold decodeWord decodeFields at h
  split at h <;> rename_i hop
  case h_1 => exact spelled_of_decode0 hop h
  case h_9 => exact spelled_of_decode8 hop h
  case h_15 => exact spelled_of_decodeE hop h
  case h_16 => exact spelled_of_decodeF hop h
  case h_6 | h_10 =>
    split_ifs at h with hkey
    cases h
    simp [spelled, hop, hkey]
  all_goals cases h <;> simp [spelled, hop]

/-- The digits fix the primary key and, in the families that have one, the secondary key, so the decoder takes the branch of the instruction;
the other digits are its operands. -/
theorem decodeWord_of_spelled (h : spelled i w) : decodeWord w = .ok i := by
  cases i <;> simp only [spelled, digit_three, digit_two, digit_one, digit_zero, lowTwo_eq, lowThree_eq] at h
  case cls | ret =>
    cases BitVec.eq_of_toNat_eq (y := BitVec.ofNatLT _ (by decide)) h
    rfl
  case jp | call | ldIndex | jpOffset | seImm | sneImm | ldImm | addImm | rnd | drw | seReg | sneReg =>
    simp [decodeWord, decodeFields, Fin.ext_iff, ← BitVec.toNat_inj, h]
  case ldReg | orReg | andReg | xorReg | addReg | subReg | shr | subn | shl =>
    simp [decodeWord, decodeFields, decode8, Fin.ext_iff, h]
  case skp | sknp =>
    simp [decodeWord, decodeFields, decodeE, Fin.ext_iff, ← BitVec.toNat_inj, h]
  case ldFromDt | ldKey | ldDt | ldSt | addIndex | ldFont | ldBcd | storeRegs | loadRegs =>
    simp [decodeWord, decodeFields, decodeF, Fin.ext_iff, ← BitVec.toNat_inj, h]

end

/-- The decoder reads every instruction from exactly the words that spell it. -/
theorem encodedAsSpelled (i : Instr) : EncodedAsSpelled i := fun _ => ⟨spelled_of_decodeWord, decodeWord_of_spelled⟩

end Sys2Proof.Encoding
end

section
/-! SUPPORT. Frames in terms of the setters: what a write of one part keeps, and that frames compose (10_state.md section 1, R174). -/

namespace Sys2Proof.Frames

open Sys2Proof.Machine Sys2Proof.Claims

theorem keepsAllBut_setPc (s : State) (w : Word) : KeepsAllBut [.pc] s (s.setPc w) := by
  intro p hp
  cases p <;> simp_all [Kept]

theorem keepsAllBut_setStack (s : State) (l : List Word) : KeepsAllBut [.stack] s (s.setStack l) := by
  intro p hp
  cases p <;> simp_all [Kept]

theorem keepsAllBut_setErr (s : State) (c : Option Cause) : KeepsAllBut [.err] s (s.setErr c) := by
  intro p hp
  cases p <;> simp_all [Kept]

theorem kept_trans {p : Part} {s t u : State} (hst : Kept p s t) (htu : Kept p t u) : Kept p s u := by
  cases p <;> simp_all [Kept]

theorem keepsAllBut_trans {ps qs : List Part} {s t u : State} (hst : KeepsAllBut ps s t) (htu : KeepsAllBut qs t u) :
    KeepsAllBut (ps ++ qs) s u := by
  intro p hp
  rw [List.mem_append, not_or] at hp
  exact kept_trans (hst p hp.1) (htu p hp.2)

theorem keepsAllBut_mono {ps qs : List Part} {s t : State} (hsub : ps ⊆ qs) (h : KeepsAllBut ps s t) : KeepsAllBut qs s t :=
  fun p hp => h p (mt (@hsub p) hp)

/-- Taking a fatal error latches its cause and changes nothing else (rule R174). -/
theorem failsWith_raise (e : Error) (s : State) : FailsWith (causeOf e) s (raise e s) :=
  ⟨_, raise_eq e s, rfl, keepsAllBut_setErr s _⟩

end Sys2Proof.Frames
end

section
/-! SUPPORT. What the control transfers do to the state, one equation per case, and the statements of the family 40_flow.md that rest on
them (rules R82, R83, R85 to R88). -/

namespace Sys2Proof.Flow

open Sys2Proof.Machine Sys2Proof.Claims Sys2Proof.Encoding Sys2Proof.Frames

/-! Jump (rule R83). -/

theorem exec_jp (nnn : Addr12) (s : State) : exec (.jp nnn) s = .next (s.setPc (zext16 nnn)) := rfl

theorem zext16_toNat (nnn : Addr12) : (zext16 nnn).toNat = nnn.toNat :=
  BitVec.toNat_setWidth_of_le (by decide)

theorem setPc_self (s : State) : s.setPc s.pc = s := rfl

/-- Settles O24: the jump is one write of `PC`, which at its own address writes what `PC` holds. -/
theorem jumpLoadsPc : Obligations.JumpLoadsPc := by
  unfold Obligations.JumpLoadsPc
  refine fun nnn => ⟨encodedAsSpelled _, fun s => ⟨_, exec_jp nnn s, zext16_toNat nnn, keepsAllBut_setPc s _, fun hself => ?_⟩⟩
  have hpc : zext16 nnn = s.pc := BitVec.eq_of_toNat_eq ((zext16_toNat nnn).trans hself.symm)
  rw [hpc, setPc_self]

/-! Call and return (rules R82, R84). -/

theorem exec_call_of_room (nnn : Addr12) {s : State} (h : s.sp < 16) :
    exec (.call nnn) s = .next ((s.setStack ((s.pc + 2) :: s.stack)).setPc (zext16 nnn)) := by
  obtain ⟨hfull, -⟩ | ⟨-, hpush⟩ := push_cases s.advance.pc s.advance
  · exact absurd h (Nat.not_lt.mpr hfull)
  · simp only [exec, execCall, hpush]
    rfl

theorem exec_ret_of_cons {s : State} {w : Word} {rest : List Word} (h : s.stack = w :: rest) :
    exec .ret s = .next ((s.setStack rest).setPc w) := by
  simp [exec, execRet, pop, h]

theorem exec_ret_of_nil {s : State} (h : s.stack = []) : exec .ret s = raise .stackUnderflow s := by
  simp only [exec, execRet, pop, h]

/-- Settles O26: the pop and the write of `PC` keep all else, and after a call the top entry is `PC + 2`. -/
theorem returnPopsTheStackIntoPc : Obligations.ReturnPopsTheStackIntoPc := by
  unfold Obligations.ReturnPopsTheStackIntoPc
  refine ⟨encodedAsSpelled _, fun s w rest hs => ?_, fun s hs => ?_, fun s u nnn hroom hcall => ?_⟩
  · exact ⟨_, exec_ret_of_cons hs, rfl, rfl,
      keepsAllBut_mono (by decide) (keepsAllBut_trans (keepsAllBut_setStack s rest) (keepsAllBut_setPc _ w))⟩
  · rw [exec_ret_of_nil hs]
    exact failsWith_raise .stackUnderflow s
  · cases (exec_call_of_room nnn hroom).symm.trans hcall
    exact ⟨_, exec_ret_of_cons rfl, rfl, rfl⟩

/-! Skips (rules R85 to R88). -/

theorem advance_skipIf (s : State) (c : Bool) : s.advance.skipIf c = s.setPc (if c then s.pc + 4 else s.pc + 2) := by
  cases c with
  | false => rfl
  | true =>
    have hpc : s.pc + 2 + 2 = s.pc + 4 := BitVec.add_assoc s.pc 2 2
    exact congrArg s.setPc hpc

/-- A skip is one write of `PC`: its comparison of bytes is the one of `skipTaken`, of numbers. -/
theorem exec_of_skipTaken {i : Instr} {s : State} {c : Bool} (h : skipTaken s i = some c) :
    exec i s = .next (s.setPc (if c then s.pc + 4 else s.pc + 2)) := by
  rw [← advance_skipIf]
  cases i <;> simp only [skipTaken, reduceCtorEq, BitVec.toNat_inj, ne_eq] at h
  case seImm | sneImm | seReg | sneReg =>
    cases h
    simp [exec, execSeImm, execSneImm, execSeReg, execSneReg, bne, beq_eq_decide]

/-- In the families 5 and 9 only the secondary key 0 is defined (rules R66, R69). -/
theorem decodeWord_unknown_of_digits {w : Word} (hop : digit w 3 = 0x5 ∨ digit w 3 = 0x9) (hn : digit w 0 ≠ 0) :
    decodeWord w = .error (.unknownOpcode w) := by
  rw [digit_three] at hop
  have hkey : (fieldsOf w).n ≠ 0 := fun h => hn (by simp [h])
  obtain hop | hop := hop <;> simp [decodeWord, decodeFields, hop, hkey]

/-- Settles O27: each skip is one write of `PC`, to `PC + 4` or `PC + 2`; the unknown words lack the key 0. -/
theorem skipsFollowTheirCondition : Obligations.SkipsFollowTheirCondition := by
  unfold Obligations.SkipsFollowTheirCondition
  exact ⟨fun i s c hc => ⟨encodedAsSpelled i, _, exec_of_skipTaken hc, rfl, keepsAllBut_setPc s _⟩,
    fun _ => decodeWord_unknown_of_digits⟩

end Sys2Proof.Flow
end

section
/-! SUPPORT. The frame of a write of one V register (10_state.md R10). -/

namespace Sys2Proof.Frames

open Sys2Proof.Machine Sys2Proof.Claims

theorem keepsAllBut_setReg (s : State) (x : Nibble) (b : Byte) : KeepsAllBut [.regs] s (s.setReg x b) := by
  intro p hp
  cases p <;> simp_all [Kept]

theorem keepsRegsBut_setReg (s : State) (x : Nibble) (b : Byte) : KeepsRegsBut [x] s (s.setReg x b) :=
  fun j hj => State.reg_setReg_ne s x j b (List.ne_of_not_mem_cons hj)

end Sys2Proof.Frames
end

section
/-! SUPPORT. The instructions that compute one register and no flag, and the statement of the family 41_alu.md about them (rules R100 to
R105). -/

namespace Sys2Proof.Alu

open Sys2Proof.Machine Sys2Proof.Claims Sys2Proof.Encoding Sys2Proof.Frames

/-- Each of the six is one write of `V[X]` after the advance of `PC`: the byte written has the number that `plainAlu` gives. -/
theorem exec_of_plainAlu {i : Instr} {s : State} {x : Nibble} {r : Nat} (h : plainAlu s i = some (x, r)) :
    ∃ b : Byte, b.toNat = r ∧ exec i s = .next (s.advance.setReg x b) := by
  cases i <;> simp only [plainAlu, reduceCtorEq] at h
  case ldImm nn => cases h; exact ⟨nn, rfl, rfl⟩
  case addImm nn => cases h; exact ⟨s.reg x + nn, BitVec.toNat_add _ _, rfl⟩
  case ldReg y => cases h; exact ⟨s.reg y, rfl, rfl⟩
  case orReg y => cases h; exact ⟨s.reg x ||| s.reg y, BitVec.toNat_or _ _, rfl⟩
  case andReg y => cases h; exact ⟨s.reg x &&& s.reg y, BitVec.toNat_and _ _, rfl⟩
  case xorReg y => cases h; exact ⟨s.reg x ^^^ s.reg y, BitVec.toNat_xor _ _, rfl⟩

/-- Settles O21: the advance writes `PC` alone, and the one register written is `V[X]`, VF like any other. -/
theorem loadAddAndLogicWriteOneRegister : Obligations.LoadAddAndLogicWriteOneRegister := by
  unfold Obligations.LoadAddAndLogicWriteOneRegister
  intro i s x r h
  obtain ⟨b, hb, hexec⟩ := exec_of_plainAlu h
  refine ⟨encodedAsSpelled i, _, hexec, ?_, keepsRegsBut_setReg s.advance x b, rfl, ?_⟩
  · rw [State.reg_setReg_same, hb]
  · have hadvance : KeepsAllBut [.pc] s s.advance := keepsAllBut_setPc s (s.pc + 2)
    exact keepsAllBut_mono (by decide) (keepsAllBut_trans hadvance (keepsAllBut_setReg s.advance x b))

end Sys2Proof.Alu
end

section
/-! SUPPORT. The frame of a write of `I` (10_state.md R12). -/

namespace Sys2Proof.Frames

open Sys2Proof.Machine Sys2Proof.Claims

theorem keepsAllBut_setIndex (s : State) (w : Word) : KeepsAllBut [.index] s (s.setIndex w) := by
  intro p hp
  cases p <;> simp_all [Kept]

end Sys2Proof.Frames
end

section
/-! SUPPORT. What the instructions that load `I` write, and the statement of the family 42_index_memory.md about them (rules R120, R122). -/

namespace Sys2Proof.IndexMemory

open Sys2Proof.Machine Sys2Proof.Claims Sys2Proof.Encoding Sys2Proof.Frames Sys2Proof.Flow

theorem keepsAllBut_advance_setIndex (s : State) (w : Word) : KeepsAllBut [.index, .pc] s (s.advance.setIndex w) := by
  have hadvance : KeepsAllBut [.pc] s s.advance := keepsAllBut_setPc s (s.pc + 2)
  exact keepsAllBut_mono (by decide) (keepsAllBut_trans hadvance (keepsAllBut_setIndex s.advance w))

theorem exec_ldIndex (nnn : Addr12) (s : State) : exec (.ldIndex nnn) s = .next (s.advance.setIndex (zext16 nnn)) := rfl

theorem exec_ldFont (x : Nibble) (s : State) : exec (.ldFont x) s = .next (s.advance.setIndex (glyphAddress (s.reg x))) := rfl

/-- The mask 0x0F is the remainder by 16, so the address is at most 0x050 + 75 and does not wrap (rule R122). -/
theorem glyphAddress_toNat (b : Byte) : (glyphAddress b).toNat = 0x050 + 5 * (b.toNat % 16) := by
  have hmask : (b &&& 0x0F).toNat = b.toNat % 16 := Nat.and_two_pow_sub_one_eq_mod b.toNat 4
  rw [glyphAddress, hmask, BitVec.toNat_ofNat, Config.fontBase]
  omega

/-- Settles O29: each of the two is the advance of `PC` and one write of `I`. -/
theorem indexLoadsAddressOrGlyph : Obligations.IndexLoadsAddressOrGlyph := by
  unfold Obligations.IndexLoadsAddressOrGlyph
  refine ⟨fun nnn => ⟨encodedAsSpelled _, fun s => ?_⟩, fun x => ⟨encodedAsSpelled _, fun s => ?_⟩⟩
  · exact ⟨_, exec_ldIndex nnn s, zext16_toNat nnn, rfl, keepsAllBut_advance_setIndex s _⟩
  · exact ⟨_, exec_ldFont x s, glyphAddress_toNat (s.reg x), rfl, keepsAllBut_advance_setIndex s _⟩

end Sys2Proof.IndexMemory
end

section
/-! SUPPORT. The frame of a write of the display surface (43_display.md R137). -/

namespace Sys2Proof.Frames

open Sys2Proof.Machine Sys2Proof.Claims

theorem keepsAllBut_setDisp (s : State) (d : Display) : KeepsAllBut [.screen] s (s.setDisp d) := by
  intro p hp
  cases p <;> simp_all [Kept]

end Sys2Proof.Frames
end

section
/-! SUPPORT. What the display's clear writes, and the statement of the family 43_display.md about it (rule R135). -/

namespace Sys2Proof.Screen

open Sys2Proof.Machine Sys2Proof.Claims Sys2Proof.Encoding Sys2Proof.Frames

theorem exec_cls (s : State) : exec .cls s = .next (s.advance.setDisp Display.clear) := rfl

/-- Settles O38: the clear is the advance of `PC` and one write of the surface, with all cells off; VF is not among what is written. -/
theorem clearTurnsEveryCellOff : Obligations.ClearTurnsEveryCellOff := by
  unfold Obligations.ClearTurnsEveryCellOff
  refine ⟨encodedAsSpelled _, fun s => ⟨_, exec_cls s, fun x y _ _ => Display.get_clear x y, rfl, ?_⟩⟩
  have hadvance : KeepsAllBut [.pc] s s.advance := keepsAllBut_setPc s (s.pc + 2)
  exact keepsAllBut_mono (by decide) (keepsAllBut_trans hadvance (keepsAllBut_setDisp s.advance Display.clear))

end Sys2Proof.Screen
end

section
/-! SUPPORT. The frames of the writes of the two timers (10_state.md section 1), and of the advance of `PC` followed by one write (R80). -/

namespace Sys2Proof.Frames

open Sys2Proof.Machine Sys2Proof.Claims

theorem keepsAllBut_setDt (s : State) (b : Byte) : KeepsAllBut [.dt] s (s.setDt b) := by
  intro p hp
  cases p <;> simp_all [Kept]

theorem keepsAllBut_setSt (s : State) (b : Byte) : KeepsAllBut [.st] s (s.setSt b) := by
  intro p hp
  cases p <;> simp_all [Kept]

theorem keepsAllBut_of_advance {p : Part} {s t : State} (h : KeepsAllBut [p] s.advance t) : KeepsAllBut [p, .pc] s t := by
  have hadvance : KeepsAllBut [.pc] s s.advance := keepsAllBut_setPc s (s.pc + 2)
  exact keepsAllBut_mono (List.Perm.swap p .pc []).subset (keepsAllBut_trans hadvance h)

end Sys2Proof.Frames
end

section
/-! SUPPORT. What the instructions that move a timer write, and the statement of the family 44_keypad_timers.md about them (rules R153 to
R155). -/

namespace Sys2Proof.Timers

open Sys2Proof.Machine Sys2Proof.Claims Sys2Proof.Encoding Sys2Proof.Frames

theorem exec_ldFromDt (x : Nibble) (s : State) : exec (.ldFromDt x) s = .next (s.advance.setReg x s.dt) := rfl

theorem exec_ldDt (x : Nibble) (s : State) : exec (.ldDt x) s = .next (s.advance.setDt (s.reg x)) := rfl

theorem exec_ldSt (x : Nibble) (s : State) : exec (.ldSt x) s = .next (s.advance.setSt (s.reg x)) := rfl

/-- Settles O42: each of the three is the advance of `PC` and one write, of `V[X]` or of the timer; the timer read is not written. -/
theorem timerInstructionsMoveTheTimers : Obligations.TimerInstructionsMoveTheTimers := by
  unfold Obligations.TimerInstructionsMoveTheTimers
  refine fun x => ⟨⟨encodedAsSpelled _, fun s => ?_⟩, ⟨encodedAsSpelled _, fun s => ?_⟩, ⟨encodedAsSpelled _, fun s => ?_⟩⟩
  · exact ⟨_, exec_ldFromDt x s, State.reg_setReg_same s.advance x s.dt, keepsRegsBut_setReg s.advance x s.dt, rfl,
      keepsAllBut_of_advance (keepsAllBut_setReg s.advance x s.dt)⟩
  · exact ⟨_, exec_ldDt x s, rfl, rfl, keepsAllBut_of_advance (keepsAllBut_setDt s.advance (s.reg x))⟩
  · exact ⟨_, exec_ldSt x s, rfl, rfl, keepsAllBut_of_advance (keepsAllBut_setSt s.advance (s.reg x))⟩

end Sys2Proof.Timers
end

section
/-! SUPPORT. The frames of the writes of the keypad snapshot and of the model's own `romOpen` and `pending` (10_state.md section 1, R26). -/

namespace Sys2Proof.Frames

open Sys2Proof.Machine Sys2Proof.Claims

theorem keepsAllBut_setKeys (s : State) (k : Word) : KeepsAllBut [.keys] s (s.setKeys k) := by
  intro p hp
  cases p <;> simp_all [Kept]

theorem keepsAllBut_setRomOpen (s : State) (b : Bool) : KeepsAllBut [.romOpen] s (s.setRomOpen b) := by
  intro p hp
  cases p <;> simp_all [Kept]

theorem keepsAllBut_setPending (s : State) (l : List Event) : KeepsAllBut [.pending] s (s.setPending l) := by
  intro p hp
  cases p <;> simp_all [Kept]

/-- What the model's own bookkeeping of an event adds to the frame of the event's writes: the event leaves `pending`, and `romOpen` closes. -/
theorem keepsAllBut_of_event {ps : List Part} {s t : State} {rest : List Event} (h : KeepsAllBut ps (s.setPending rest) t) :
    KeepsAllBut (ps ++ [.romOpen, .pending]) s (t.setRomOpen false) := by
  have hall := keepsAllBut_trans (keepsAllBut_trans (keepsAllBut_setPending s rest) h) (keepsAllBut_setRomOpen t false)
  refine keepsAllBut_mono (fun p hp => ?_) hall
  simp only [List.mem_append, List.mem_cons, List.not_mem_nil, or_false] at hp ⊢
  tauto

end Sys2Proof.Frames
end

section
/-! SUPPORT. What the host's events `Tick` and `KeypadUpdate` do, which instructions and events leave the timers alone, and the statements of
the family 60_exceptions.md about them (rules R175, R179, R181). -/

namespace Sys2Proof.Events

open Sys2Proof.Machine Sys2Proof.Claims Sys2Proof.Frames Sys2Proof.Flow

theorem step_of_pending {s : State} {e : Event} {rest : List Event} (h : s.pending = e :: rest) :
    step s = perform e (s.setPending rest) := by
  simp [step, h]

/-! The keypad snapshot (rule R181). -/

theorem keypadUpdate_of_noError (s : State) (k : Word) (h : s.err = none) : keypadUpdate k s = (s.setKeys k).setRomOpen false := by
  simp [keypadUpdate, h]

theorem keypadUpdate_of_error {s : State} (k : Word) (h : s.err ≠ none) : keypadUpdate k s = s := by
  obtain ⟨c, hc⟩ := Option.ne_none_iff_exists'.mp h
  simp [keypadUpdate, hc]

/-- Settles O47: of the machine, the event writes `KEYS` alone. -/
theorem keypadUpdateReplacesTheSnapshot : Obligations.KeypadUpdateReplacesTheSnapshot := by
  unfold Obligations.KeypadUpdateReplacesTheSnapshot
  refine ⟨fun s k rest herr hp => ?_, fun _ k => keypadUpdate_of_error k⟩
  have hstep : step s = .next (((s.setPending rest).setKeys k).setRomOpen false) :=
    (step_of_pending hp).trans (congrArg _ (keypadUpdate_of_noError (s.setPending rest) k herr))
  exact ⟨_, hstep, rfl, rfl, keepsAllBut_of_event (keepsAllBut_setKeys _ k)⟩

/-! The timers (rule R179). -/

theorem countDown_toNat (b : Byte) : (countDown b).toNat = b.toNat - 1 := by
  by_cases h : b = 0x00
  · simp [countDown, h]
  · rw [countDown, if_neg h]
    bv_omega

theorem tick_of_noError (s : State) (h : s.err = none) :
    tick s = ((s.setDt (countDown s.dt)).setSt (countDown s.st)).setRomOpen false := by
  simp [tick, h]

theorem tick_of_error {s : State} (h : s.err ≠ none) : tick s = s := by
  obtain ⟨c, hc⟩ := Option.ne_none_iff_exists'.mp h
  simp [tick, hc]

theorem consumeRandom_timers (s : State) : (consumeRandom s).dt = s.dt ∧ (consumeRandom s).st = s.st := by
  obtain ⟨_, _, _, _, h⟩ | ⟨_, _, h⟩ := consumeRandom_cases s <;> simp [h]

/-- Of the instructions only FX15 writes `DT` and only FX18 writes `ST`: every other one ends, on each of its paths, in writes of other parts. -/
theorem exec_timers_cases {i : Instr} {s t : State} (h : exec i s = .next t) :
    ((∃ x, i = .ldDt x) ∧ t.st = s.st) ∨ ((∃ x, i = .ldSt x) ∧ t.dt = s.dt) ∨ (t.dt = s.dt ∧ t.st = s.st) := by
  cases i
  case ldDt x => cases h; exact .inl ⟨⟨x, rfl⟩, rfl⟩
  case ldSt x => cases h; exact .inr (.inl ⟨⟨x, rfl⟩, rfl⟩)
  all_goals refine .inr (.inr ?_)
  case rnd => cases h; exact consumeRandom_timers s
  case seImm | sneImm | seReg | sneReg => cases h; simp
  case ret =>
    cases hs : s.stack with
    | nil => cases (exec_ret_of_nil hs).symm.trans h; simp
    | cons w rest => cases (exec_ret_of_cons hs).symm.trans h; simp
  case call =>
    obtain ⟨-, hpush⟩ | ⟨-, hpush⟩ := push_cases s.advance.pc s.advance
    all_goals simp only [exec, execCall, hpush] at h; cases h; simp
  case skp x | sknp x =>
    obtain ⟨-, hkey⟩ | ⟨-, hkey⟩ := hexkey_cases (s.reg x)
    all_goals simp only [exec, execSkp, execSknp, hkey] at h; cases h; simp
  case ldKey =>
    simp only [exec, execLdKey] at h
    split at h <;> cases h <;> simp
  case drw | ldBcd | storeRegs | loadRegs =>
    simp only [exec, execDrw, execLdBcd, execStoreRegs, execLoadRegs] at h
    split at h <;> cases h <;> simp
  case addIndex =>
    cases h
    split <;> simp
  all_goals cases h; exact ⟨rfl, rfl⟩

theorem keypadUpdate_timers (k : Word) (s : State) : (keypadUpdate k s).dt = s.dt ∧ (keypadUpdate k s).st = s.st := by
  by_cases h : s.err = none
  · simp [keypadUpdate_of_noError s k h]
  · simp [keypadUpdate_of_error k h]

theorem loadRom_timers {bytes : List Byte} {s t : State} (h : loadRom bytes s = .next t) : t.dt = s.dt ∧ t.st = s.st := by
  obtain ⟨-, hload⟩ | ⟨-, -, hload⟩ | ⟨-, -, -, hload⟩ | ⟨-, -, -, hload⟩ := loadRom_cases bytes s
  all_goals cases hload.symm.trans h
  all_goals simp

theorem event_of_timer_ne {e : Event} {s t : State} (h : perform e s = .next t) (hne : t.dt ≠ s.dt ∨ t.st ≠ s.st) :
    e = .tick ∨ e = .step ∨ ∃ q, e = .reset q := by
  have hnot : ¬(t.dt = s.dt ∧ t.st = s.st) := not_and_or.mpr hne
  cases e with
  | reset q => exact .inr (.inr ⟨q, rfl⟩)
  | loadRom bytes => exact absurd (loadRom_timers h) hnot
  | keypadUpdate k => cases h; exact absurd (keypadUpdate_timers k s) hnot
  | tick => exact .inl rfl
  | step => exact .inr (.inl rfl)

/-- Settles O45: the event writes the two timers alone, each from its own value; the separation is by cases of the instruction and the event. -/
theorem tickCountsBothTimersDown : Obligations.TickCountsBothTimersDown := by
  unfold Obligations.TickCountsBothTimersDown
  refine ⟨fun s rest herr hp => ?_, fun _ => tick_of_error, fun i s t hexec => ?_, fun _ _ _ => event_of_timer_ne⟩
  · have hstep : step s = .next ((((s.setPending rest).setDt (countDown s.dt)).setSt (countDown s.st)).setRomOpen false) :=
      (step_of_pending hp).trans (congrArg _ (tick_of_noError (s.setPending rest) herr))
    exact ⟨_, hstep, countDown_toNat s.dt, countDown_toNat s.st, rfl,
      keepsAllBut_of_event (keepsAllBut_trans (keepsAllBut_setDt _ _) (keepsAllBut_setSt _ _))⟩
  · obtain ⟨hi, hst⟩ | ⟨hi, hdt⟩ | ⟨hdt, hst⟩ := exec_timers_cases hexec
    · exact ⟨fun _ => hi, absurd hst⟩
    · exact ⟨absurd hdt, fun _ => hi⟩
    · exact ⟨absurd hdt, absurd hst⟩

end Sys2Proof.Events
end

section
/-! SUPPORT. The encoder against the decoder, and the unknown words, for every instruction (rules R64, R67, R69, R72). -/

namespace Sys2Proof.Encoding

open Sys2Proof.Machine Sys2Proof.Claims

/-! The encoder's word spells the instruction, and no other word does. -/

theorem spelled_encode (i : Instr) : spelled i (encode i) := by
  cases i
  case cls | ret => rfl
  case jp | call | ldIndex | jpOffset => simp [spelled, encode, fieldsOf_wordA]
  case seImm | sneImm | ldImm | addImm | rnd | skp | sknp => simp [spelled, encode, fieldsOf_wordXI]
  case ldFromDt | ldKey | ldDt | ldSt | addIndex | ldFont | ldBcd | storeRegs | loadRegs =>
    simp [spelled, encode, fieldsOf_wordXI]
  case seReg | sneReg | drw => simp [spelled, encode, fieldsOf_wordXYN]
  case ldReg | orReg | andReg | xorReg | addReg | subReg | shr | subn | shl =>
    simp [spelled, encode, fieldsOf_wordXYN]

theorem wordA_eq_of_digits {w : Word} {op : Nibble} {nnn : Addr12} (h : digit w 3 = op.val ∧ lowThree w = nnn.toNat) :
    wordA op nnn = w := by
  have := w.isLt
  simp only [digit, lowThree] at h
  rw [← BitVec.toNat_inj, wordA_toNat]
  omega

theorem wordXI_eq_of_digits {w : Word} {op x : Nibble} {nn : Byte}
    (h : digit w 3 = op.val ∧ digit w 2 = x.val ∧ lowTwo w = nn.toNat) : wordXI op x nn = w := by
  have := w.isLt
  simp only [digit, lowTwo] at h
  rw [← BitVec.toNat_inj, wordXI_toNat]
  omega

theorem wordXYN_eq_of_digits {w : Word} {op x y n : Nibble}
    (h : digit w 3 = op.val ∧ digit w 2 = x.val ∧ digit w 1 = y.val ∧ digit w 0 = n.val) : wordXYN op x y n = w := by
  have := w.isLt
  simp only [digit] at h
  rw [← BitVec.toNat_inj, wordXYN_toNat]
  omega

theorem encode_eq_of_spelled {i : Instr} {w : Word} (h : spelled i w) : encode i = w := by
  cases i
  case cls | ret => exact BitVec.eq_of_toNat_eq (Eq.symm h)
  case jp | call | ldIndex | jpOffset => exact wordA_eq_of_digits h
  case seImm | sneImm | ldImm | addImm | rnd | skp | sknp => exact wordXI_eq_of_digits h
  case ldFromDt | ldKey | ldDt | ldSt | addIndex | ldFont | ldBcd | storeRegs | loadRegs => exact wordXI_eq_of_digits h
  case seReg | sneReg | drw => exact wordXYN_eq_of_digits h
  case ldReg | orReg | andReg | xorReg | addReg | subReg | shr | subn | shl => exact wordXYN_eq_of_digits h

theorem decodeWord_encode (i : Instr) : decodeWord (encode i) = .ok i := decodeWord_of_spelled (spelled_encode i)

/-- The first two bytes, high byte first, are the word that is decoded; the rest is left over (rules R44, R60). -/
theorem decode_wordBytes_append (w : Word) (rest : List Byte) :
    decode (wordBytes w ++ rest) = (decodeWord w).map (·, rest) := by
  simp only [wordBytes, List.cons_append, List.nil_append, decode, compose_bytes]
  cases decodeWord w <;> rfl

/-- Settles O1: the encoder's word spells the instruction, so the decoder reads the instruction from it. -/
theorem decodeOfEncodeIsTheInstruction : Obligations.DecodeOfEncodeIsTheInstruction := by
  unfold Obligations.DecodeOfEncodeIsTheInstruction
  intro i rest
  rw [encodeBytes, decode_wordBytes_append, decodeWord_encode]
  rfl

/-- Settles O2: a word that decodes spells its instruction, and the digits of an instruction fix the word. -/
theorem encodeOfDecodeIsTheWord : Obligations.EncodeOfDecodeIsTheWord := by
  unfold Obligations.EncodeOfDecodeIsTheWord
  exact fun _ _ h => encode_eq_of_spelled (spelled_of_decodeWord h)

/-- Settles O4: the decoder read against the digits of the word, both ways. -/
theorem everyWordIsReadFromItsDigits : Obligations.EveryWordIsReadFromItsDigits := by
  unfold Obligations.EveryWordIsReadFromItsDigits
  exact encodedAsSpelled

/-! The unknown words, family by family (rule R69). -/

section
variable {w : Word}

theorem decodeWord_of_unknownDigits (h : unknownDigits w) : decodeWord w = .error (.unknownOpcode w) := by
  simp only [unknownDigits, digit_three, digit_zero, lowTwo_eq, lowThree_eq] at h
  obtain ⟨hop, hkey⟩ | ⟨hop, hkey⟩ | ⟨hop, hkey⟩ | ⟨hop, hkey⟩ | ⟨hop, hkey⟩ | ⟨hop, hkey⟩ := h
  · simp [decodeWord, decodeFields, decode0, hop, ← BitVec.toNat_inj, hkey]
  · exact Flow.decodeWord_unknown_of_digits (.inl (by simp [hop])) (by simpa using hkey)
  · simp only [List.mem_cons, List.not_mem_nil, or_false] at hkey
    obtain hkey | hkey | hkey | hkey | hkey | hkey | hkey := hkey <;>
      simp [decodeWord, decodeFields, decode8, hop, hkey]
  · exact Flow.decodeWord_unknown_of_digits (.inr (by simp [hop])) (by simpa using hkey)
  · simp only [List.mem_cons, List.not_mem_nil, or_false, not_or] at hkey
    simp [decodeWord, decodeFields, decodeE, hop, ← BitVec.toNat_inj, hkey]
  · simp only [List.mem_cons, List.not_mem_nil, or_false, not_or] at hkey
    simp [decodeWord, decodeFields, decodeF, hop, ← BitVec.toNat_inj, hkey]

theorem unknownDigits_of_decodeWord {e : DecodeError} (h : decodeWord w = .error e) : unknownDigits w := by
  simp only [unknownDigits, digit_three, digit_zero, lowTwo_eq, lowThree_eq]
  unfold decodeWord decodeFields at h
  split at h <;> rename_i hop
  case h_1 =>
    simp only [decode0] at h
    split_ifs at h with hcls hret
    exact .inl ⟨hop, fun hnnn => hcls (BitVec.eq_of_toNat_eq hnnn), fun hnnn => hret (BitVec.eq_of_toNat_eq hnnn)⟩
  case h_9 =>
    refine .inr (.inr (.inl ⟨hop, ?_⟩))
    have hlt := (fieldsOf w).n.isLt
    unfold decode8 at h
    split at h <;> cases h
    generalize (fieldsOf w).n.val = n at *
    interval_cases n <;> simp_all
  case h_6 | h_10 =>
    split_ifs at h with hkey
    simp [hop, hkey]
  case h_15 =>
    simp only [decodeE] at h
    split_ifs at h
    simp_all [← BitVec.toNat_inj]
  case h_16 =>
    simp only [decodeF] at h
    split_ifs at h
    simp_all [← BitVec.toNat_inj]
  case h_17 =>
    exfalso
    have := (fieldsOf w).op.isLt
    simp only [imp_false] at *
    omega
  all_goals cases h

end

/-- Settles O5: each listed family lacks the secondary keys of its rows; a word that does not decode is in one of them. -/
theorem unknownWordsAreTheListedOnes : Obligations.UnknownWordsAreTheListedOnes := by
  unfold Obligations.UnknownWordsAreTheListedOnes
  refine fun w => ⟨decodeWord_of_unknownDigits, fun hnot => ?_⟩
  cases h : decodeWord w with
  | ok i => exact ⟨i, rfl⟩
  | error e => exact absurd (unknownDigits_of_decodeWord h) hnot

/-- Settles O6: ten closed words. -/
theorem writtenOutWordsDecode : Obligations.WrittenOutWordsDecode := by
  unfold Obligations.WrittenOutWordsDecode
  decide

end Sys2Proof.Encoding
end

section
/-! SUPPORT. The frames of the remaining writes, and how frames are carried through an advance of `PC` (10_state.md section 1, R80). -/

namespace Sys2Proof.Frames

open Sys2Proof.Machine Sys2Proof.Claims

theorem keepsAllBut_setRegs (s : State) (v : Vector Byte 16) : KeepsAllBut [.regs] s (s.setRegs v) := by
  intro p hp
  cases p <;> simp_all [Kept]

theorem keepsAllBut_setMem (s : State) (m : Memory) : KeepsAllBut [.mem] s (s.setMem m) := by
  intro p hp
  cases p <;> simp_all [Kept]

theorem keepsAllBut_setKprev (s : State) (k : Word) : KeepsAllBut [.kprev] s (s.setKprev k) := by
  intro p hp
  cases p <;> simp_all [Kept]

theorem keepsAllBut_setRandom (s : State) (l : List Byte) (n : Nat) : KeepsAllBut [.random] s (s.setRandom l n) := by
  intro p hp
  cases p <;> simp_all [Kept]

theorem keepsAllBut_setFlag (s : State) (c : Bool) : KeepsAllBut [.regs] s (s.setFlag c) :=
  keepsAllBut_setReg s vf (flagByte c)

theorem keepsAllBut_setResultAndFlag (s : State) (x : Nibble) (r : Byte) (c : Bool) :
    KeepsAllBut [.regs] s (s.setResultAndFlag x r c) :=
  keepsAllBut_mono (by decide) (keepsAllBut_trans (keepsAllBut_setReg s x r) (keepsAllBut_setFlag (s.setReg x r) c))

theorem keepsAllBut_advance (s : State) : KeepsAllBut [.pc] s s.advance := keepsAllBut_setPc s (s.pc + 2)

theorem keepsAllBut_advance_then {ps : List Part} {s t : State} (h : KeepsAllBut ps s.advance t) : KeepsAllBut (.pc :: ps) s t :=
  keepsAllBut_trans (keepsAllBut_advance s) h

theorem keepsAllBut_consumeRandom (s : State) : KeepsAllBut [.random] s (consumeRandom s) := by
  obtain ⟨_, _, _, _, h⟩ | ⟨_, _, h⟩ := consumeRandom_cases s <;> rw [h] <;> exact keepsAllBut_setRandom s _ _

theorem keepsRegsBut_setFlag (s : State) (c : Bool) : KeepsRegsBut [15] s (s.setFlag c) := keepsRegsBut_setReg s vf (flagByte c)

theorem keepsRegsBut_setResultAndFlag (s : State) (x : Nibble) (r : Byte) (c : Bool) :
    KeepsRegsBut [x, 15] s (s.setResultAndFlag x r c) := by
  intro j hj
  simp only [List.mem_cons, List.not_mem_nil, or_false, not_or] at hj
  have hvf : j ≠ vf := hj.2
  rw [State.reg_setResultAndFlag, if_neg hvf, if_neg hj.1]

theorem keepsBytesOutside_of_kept {s t : State} (first count : Nat) (h : Kept .mem s t) : KeepsBytesOutside first count s t :=
  fun a _ => h a

theorem keepsBytesOutside_writeBytes (s : State) (a : Nat) (bs : List Byte) :
    KeepsBytesOutside a bs.length s (s.setMem (Memory.writeBytes s.mem a bs)) :=
  fun c hc => Memory.read_writeBytes_outside bs s.mem a c hc

end Sys2Proof.Frames
end

section
/-! SUPPORT. What every instruction does, said once: it ends in the error listed for it, or in the state it leaves on completion (rules R80, R166,
R174). -/

namespace Sys2Proof.Exec

open Sys2Proof.Machine Sys2Proof.Claims Sys2Proof.Encoding Sys2Proof.Frames Sys2Proof.Flow

/-- The state each instruction leaves when it raises no error, as writes to `s`. The control transfers of the last arm write `PC` alone. -/
def completed (s : State) : Instr → State
  | .cls => s.advance.setDisp Display.clear
  | .ret => (s.setStack s.stack.tail).setPc (s.stack.headD 0)
  | .call nnn => (s.setStack ((s.pc + 2) :: s.stack)).setPc (zext16 nnn)
  | .ldImm x nn => s.advance.setReg x nn
  | .addImm x nn => s.advance.setReg x (s.reg x + nn)
  | .ldReg x y => s.advance.setReg x (s.reg y)
  | .orReg x y => s.advance.setReg x (s.reg x ||| s.reg y)
  | .andReg x y => s.advance.setReg x (s.reg x &&& s.reg y)
  | .xorReg x y => s.advance.setReg x (s.reg x ^^^ s.reg y)
  | .addReg x y => s.advance.setResultAndFlag x (s.reg x + s.reg y) (addCarry (s.reg x) (s.reg y))
  | .subReg x y => s.advance.setResultAndFlag x (s.reg x - s.reg y) (noBorrow (s.reg x) (s.reg y))
  | .shr x y => s.advance.setResultAndFlag x (shiftOperand x y s >>> 1) (lowBit (shiftOperand x y s))
  | .subn x y => s.advance.setResultAndFlag x (s.reg y - s.reg x) (noBorrow (s.reg y) (s.reg x))
  | .shl x y => s.advance.setResultAndFlag x (shiftOperand x y s <<< 1) (highBit (shiftOperand x y s))
  | .ldIndex nnn => s.advance.setIndex (zext16 nnn)
  | .rnd x nn => (consumeRandom s).advance.setReg x (randomByte s &&& nn)
  | .drw x y n =>
    let d := s.disp.draw (originX x s) (originY y s) (spriteRows n s)
    (s.advance.setDisp d.disp).setFlag d.hit
  | .ldFromDt x => s.advance.setReg x s.dt
  | .ldKey x =>
    match lowestKey (newKeys s) with
    | none => s.setKprev s.keys
    | some k => (s.advance.setKprev s.keys).setReg x (BitVec.ofNat 8 k)
  | .ldDt x => s.advance.setDt (s.reg x)
  | .ldSt x => s.advance.setSt (s.reg x)
  | .addIndex x =>
    let t := s.advance.setIndex (s.index + (s.reg x).setWidth 16)
    if s.quirks.indexOverflowFlag && indexOverflow s.index (s.reg x) then t.setFlag true else t
  | .ldFont x => s.advance.setIndex (glyphAddress (s.reg x))
  | .ldBcd x => s.advance.setMem (Memory.writeBytes s.mem s.index.toNat (bcdDigits (s.reg x)))
  | .storeRegs x => (s.advance.setMem (Memory.writeBytes s.mem s.index.toNat (regsUpTo x s))).setIndex (indexAfterBlock x s)
  | .loadRegs x => (s.advance.setRegs (regsFromMem x s)).setIndex (indexAfterBlock x s)
  | i => s.setPc (pcAfter s i)

/-- What an instruction answers: the listed error's latch, or the completed state. -/
def Answers (i : Instr) (s : State) : Prop :=
  (errorOf s i = none ∧ exec i s = .next (completed s i)) ∨
  ∃ c, errorOf s i = some c ∧ exec i s = .next (s.setErr (some c))

/-- The top digit of `NNN` names the register. -/
theorem topNibble_eq (nnn : Addr12) : topNibble nnn = Fin.ofNat 16 (nnn.toNat / 256) := by
  apply Fin.ext
  simp [topNibble, Nat.shiftRight_eq_div_pow]

/-- At most 0xFFF and 0xFF, so the sum does not wrap (rule R89). -/
theorem offsetTarget_le (s : State) (nnn : Addr12) : offsetTarget s nnn ≤ 0x10FE := by
  have hnnn := nnn.isLt
  unfold offsetTarget
  split
  · have := (s.reg (Fin.ofNat 16 (nnn.toNat / 256))).isLt
    omega
  · have := (s.reg 0).isLt
    omega

theorem jumpSum_eq (s : State) (nnn : Addr12) :
    zext16 nnn + (jumpOperand nnn s).setWidth 16 = BitVec.ofNat 16 (offsetTarget s nnn) := by
  have hoffset : offsetTarget s nnn = nnn.toNat + (jumpOperand nnn s).toNat := by
    rw [offsetTarget, jumpOperand, topNibble_eq]
    split <;> rfl
  rw [hoffset, BitVec.ofNat_add]
  simp

theorem answers_ret (s : State) : Answers .ret s := by
  obtain ⟨hs, hpop⟩ | ⟨w, rest, hs, hpop⟩ := pop_cases s
  · exact .inr ⟨.stackUnderflow, by simp [errorOf, hs], by simp [exec, execRet, hpop, causeOf]⟩
  · exact .inl ⟨by simp [errorOf, hs], by simp [exec, execRet, hpop, completed, hs]⟩

theorem answers_call (nnn : Addr12) (s : State) : Answers (.call nnn) s := by
  obtain ⟨hfull, hpush⟩ | ⟨hroom, -⟩ := push_cases s.advance.pc s.advance
  · have hfull : 16 ≤ s.sp := hfull
    exact .inr ⟨.stackOverflow, by simp [errorOf, hfull], by simp only [exec, execCall, hpush]; rfl⟩
  · have hroom : s.sp < 16 := hroom
    exact .inl ⟨by simp [errorOf, hroom], exec_call_of_room nnn hroom⟩

theorem answers_skp (x : Nibble) (s : State) : Answers (.skp x) s := by
  obtain ⟨hbig, hkey⟩ | ⟨hle, hkey⟩ := hexkey_cases (s.reg x)
  · exact .inr ⟨.keyIndexRange, by simp [errorOf, hbig], by simp [exec, execSkp, hkey, causeOf]⟩
  · refine .inl ⟨by simp [errorOf, hle], ?_⟩
    simp only [exec, execSkp, hkey, advance_skipIf]
    rfl

theorem answers_sknp (x : Nibble) (s : State) : Answers (.sknp x) s := by
  obtain ⟨hbig, hkey⟩ | ⟨hle, hkey⟩ := hexkey_cases (s.reg x)
  · exact .inr ⟨.keyIndexRange, by simp [errorOf, hbig], by simp [exec, execSknp, hkey, causeOf]⟩
  · refine .inl ⟨by simp [errorOf, hle], ?_⟩
    have hpc : pcAfter s (.sknp x) = if !keyDown (s.reg x).toNat s then s.pc + 4 else s.pc + 2 := by
      change (if keyDown (s.reg x).toNat s then s.pc + 2 else s.pc + 4) = _
      cases keyDown (s.reg x).toNat s <;> rfl
    simp only [exec, execSknp, hkey, advance_skipIf, completed, hpc]

/-- The check of the whole range is the condition listed for the four instructions that access memory (rule R168). -/
theorem answers_of_range {i : Instr} {s : State} {first count : Nat}
    (hcond : (count = 0 ∨ first + count ≤ 4096) → errorOf s i = none)
    (hover : count ≠ 0 → 4096 < first + count → errorOf s i = some .memoryOverrun)
    (hexec : exec i s = match rangeError first count with | some e => raise e s | none => .next (completed s i)) : Answers i s := by
  obtain ⟨hin, hrange⟩ | ⟨hne, hout, hrange⟩ := rangeError_cases first count
  · exact .inl ⟨hcond hin, by rw [hexec, hrange]⟩
  · exact .inr ⟨.memoryOverrun, hover hne hout, by rw [hexec, hrange]; rfl⟩

/-- While it waits, `PC` is advanced and rewound: it stays where it is (rule R152). -/
theorem answers_ldKey (x : Nibble) (s : State) : Answers (.ldKey x) s := by
  refine .inl ⟨rfl, ?_⟩
  have hrewind : (s.advance.setKprev s.keys).setPc ((s.advance.setKprev s.keys).pc - 2) = s.setKprev s.keys := by
    have hpc : s.pc + 2 - 2 = s.pc := BitVec.add_sub_cancel s.pc 2
    exact congrArg (s.setKprev s.keys).setPc hpc
  cases hkey : lowestKey (newKeys s) <;> simp only [exec, execLdKey, completed, hkey, hrewind]

theorem exec_cases (i : Instr) (s : State) : Answers i s := by
  cases i
  case ret => exact answers_ret s
  case call nnn => exact answers_call nnn s
  case skp x => exact answers_skp x s
  case sknp x => exact answers_sknp x s
  case drw | ldBcd | storeRegs | loadRegs =>
    exact answers_of_range (fun _ => if_neg (by omega)) (fun _ _ => if_pos (by omega)) rfl
  case ldKey x => exact answers_ldKey x s
  case seImm | sneImm | seReg | sneReg =>
    refine .inl ⟨rfl, (exec_of_skipTaken rfl).trans ?_⟩
    simp [completed, pcAfter, skipTaken]
  case jpOffset nnn =>
    refine .inl ⟨rfl, ?_⟩
    simp only [exec, execJpOffset, jumpSum_eq]
    rfl
  case jp nnn =>
    refine .inl ⟨rfl, (exec_jp nnn s).trans ?_⟩
    simp [completed, pcAfter, ← BitVec.ofNat_toNat]
  all_goals exact .inl ⟨rfl, rfl⟩

theorem exec_of_errorOf_none {i : Instr} {s : State} (h : errorOf s i = none) : exec i s = .next (completed s i) := by
  obtain ⟨-, hexec⟩ | ⟨c, hc, -⟩ := exec_cases i s
  · exact hexec
  · cases h.symm.trans hc

theorem exec_of_errorOf_some {i : Instr} {s : State} {c : Cause} (h : errorOf s i = some c) :
    exec i s = .next (s.setErr (some c)) := by
  obtain ⟨hn, -⟩ | ⟨c', hc, hexec⟩ := exec_cases i s
  · cases h.symm.trans hn
  · cases h.symm.trans hc
    exact hexec

/-- FX0A waits exactly when no key is new, and else takes the lowest new one (rule R152). -/
theorem completed_ldKey_cases (x : Nibble) (s : State) :
    (newKeys s = 0 ∧ completed s (.ldKey x) = s.setKprev s.keys) ∨
    ∃ k, k < 16 ∧ (newKeys s).getLsbD k = true ∧ (∀ j, j < k → (newKeys s).getLsbD j = false) ∧
      completed s (.ldKey x) = (s.advance.setKprev s.keys).setReg x (BitVec.ofNat 8 k) := by
  obtain ⟨hnew, hkey⟩ | ⟨k, hk, hkey, hbit, hlow⟩ := lowestKey_cases (newKeys s)
  · exact .inl ⟨hnew, by simp only [completed, hkey]⟩
  · exact .inr ⟨k, hk, hbit, hlow, by simp only [completed, hkey]⟩

/-- FX1E writes VF exactly under the quirk on overflow (rule R121). -/
theorem completed_addIndex_cases (x : Nibble) (s : State) :
    ((s.quirks.indexOverflowFlag = true ∧ 0xFFFF < s.index.toNat + (s.reg x).toNat) ∧
      completed s (.addIndex x) = (s.advance.setIndex (s.index + (s.reg x).setWidth 16)).setFlag true) ∨
    (¬(s.quirks.indexOverflowFlag = true ∧ 0xFFFF < s.index.toNat + (s.reg x).toNat) ∧
      completed s (.addIndex x) = s.advance.setIndex (s.index + (s.reg x).setWidth 16)) := by
  have hiff : (s.quirks.indexOverflowFlag && indexOverflow s.index (s.reg x)) = true ↔
      s.quirks.indexOverflowFlag = true ∧ 0xFFFF < s.index.toNat + (s.reg x).toNat := by
    rw [Bool.and_eq_true, indexOverflow, decide_eq_true_eq]
  rw [← hiff]
  by_cases h : (s.quirks.indexOverflowFlag && indexOverflow s.index (s.reg x)) = true
  · exact .inl ⟨h, if_pos h⟩
  · exact .inr ⟨h, if_neg h⟩

theorem failsWith_of_errorOf {i : Instr} {s : State} {c : Cause} (h : errorOf s i = some c) : FailsWith c s (exec i s) :=
  ⟨_, exec_of_errorOf_some h, rfl, keepsAllBut_setErr s _⟩

end Sys2Proof.Exec
end

section
/-! SUPPORT. What every completed instruction keeps, and the statements over all instructions and states that rest on it (rules R49, R90, R91, R166,
R173, R174). -/

namespace Sys2Proof.Exec

open Sys2Proof.Machine Sys2Proof.Claims Sys2Proof.Frames

/-! Frames. -/

theorem completed_keepsAllBut (i : Instr) (s : State) : KeepsAllBut (writes i) s (completed s i) := by
  cases i
  case jp | jpOffset | seImm | sneImm | seReg | sneReg => exact keepsAllBut_setPc s _
  case skp | sknp => exact keepsAllBut_mono (qs := [.pc, .err]) (by decide) (keepsAllBut_setPc s _)
  case ret | call =>
    refine keepsAllBut_mono (qs := [.pc, .stack, .err]) (by decide) (keepsAllBut_trans (keepsAllBut_setStack s _) (keepsAllBut_setPc _ _))
  case cls => exact keepsAllBut_advance_then (keepsAllBut_setDisp _ _)
  case ldImm | addImm | ldReg | orReg | andReg | xorReg | ldFromDt => exact keepsAllBut_advance_then (keepsAllBut_setReg _ _ _)
  case addReg | subReg | shr | subn | shl => exact keepsAllBut_advance_then (keepsAllBut_setResultAndFlag _ _ _ _)
  case ldIndex | ldFont => exact keepsAllBut_advance_then (keepsAllBut_setIndex _ _)
  case ldDt => exact keepsAllBut_advance_then (keepsAllBut_setDt _ _)
  case ldSt => exact keepsAllBut_advance_then (keepsAllBut_setSt _ _)
  case rnd =>
    exact keepsAllBut_mono (qs := [.pc, .regs, .random]) (by decide)
      (keepsAllBut_trans (keepsAllBut_consumeRandom s) (keepsAllBut_advance_then (keepsAllBut_setReg _ _ _)))
  case drw =>
    exact keepsAllBut_mono (qs := [.pc, .screen, .regs, .err]) (by decide)
      (keepsAllBut_advance_then (keepsAllBut_trans (keepsAllBut_setDisp _ _) (keepsAllBut_setFlag _ _)))
  case ldKey x =>
    obtain ⟨-, h⟩ | ⟨_, _, _, _, h⟩ := completed_ldKey_cases x s <;> rw [h]
    · exact keepsAllBut_mono (qs := [.pc, .regs, .kprev]) (by decide) (keepsAllBut_setKprev s _)
    · exact keepsAllBut_mono (qs := [.pc, .regs, .kprev]) (by decide)
        (keepsAllBut_advance_then (keepsAllBut_trans (keepsAllBut_setKprev _ _) (keepsAllBut_setReg _ _ _)))
  case addIndex x =>
    obtain ⟨-, h⟩ | ⟨-, h⟩ := completed_addIndex_cases x s <;> rw [h]
    · exact keepsAllBut_advance_then (keepsAllBut_trans (keepsAllBut_setIndex _ _) (keepsAllBut_setFlag _ _))
    · exact keepsAllBut_mono (qs := [.pc, .index, .regs]) (by decide) (keepsAllBut_advance_then (keepsAllBut_setIndex _ _))
  case ldBcd =>
    exact keepsAllBut_mono (qs := [.pc, .mem, .err]) (by decide) (keepsAllBut_advance_then (keepsAllBut_setMem _ _))
  case storeRegs =>
    exact keepsAllBut_mono (qs := [.pc, .mem, .index, .err]) (by decide)
      (keepsAllBut_advance_then (keepsAllBut_trans (keepsAllBut_setMem _ _) (keepsAllBut_setIndex _ _)))
  case loadRegs =>
    exact keepsAllBut_mono (qs := [.pc, .regs, .index, .err]) (by decide)
      (keepsAllBut_advance_then (keepsAllBut_trans (keepsAllBut_setRegs _ _) (keepsAllBut_setIndex _ _)))

/-- The part `err` is among the writes only for the error's own sake: on completion it is kept. -/
theorem completed_err (i : Instr) (s : State) : (completed s i).err = s.err := by
  cases i
  case rnd => exact keepsAllBut_consumeRandom s .err (by decide)
  case ldKey x => obtain ⟨-, h⟩ | ⟨_, _, _, _, h⟩ := completed_ldKey_cases x s <;> rw [h] <;> rfl
  case addIndex x => obtain ⟨-, h⟩ | ⟨-, h⟩ := completed_addIndex_cases x s <;> rw [h] <;> rfl
  all_goals rfl

theorem keepsAllBut_completed {i : Instr} {ps : List Part} (s : State) (hw : writes i ⊆ .err :: ps) :
    KeepsAllBut ps s (completed s i) := by
  intro p hp
  by_cases herr : p = .err
  · subst herr
    exact completed_err i s
  · refine completed_keepsAllBut i s p fun hin => ?_
    obtain h | h := List.mem_cons.mp (hw hin)
    · exact herr h
    · exact hp h

theorem completed_keepsRegsBut (i : Instr) (s : State) : KeepsRegsBut (regsWritten i) s (completed s i) := by
  cases i
  case ldImm | addImm | ldReg | orReg | andReg | xorReg | ldFromDt => exact keepsRegsBut_setReg s.advance _ _
  case addReg | subReg | shr | subn | shl => exact keepsRegsBut_setResultAndFlag s.advance _ _ _
  case rnd x nn =>
    intro j hj
    have hkept : (consumeRandom s).reg j = s.reg j := keepsAllBut_consumeRandom s .regs (by decide) j
    exact (keepsRegsBut_setReg (consumeRandom s).advance x _ j hj).trans hkept
  case ldKey x =>
    obtain ⟨-, h⟩ | ⟨_, _, _, _, h⟩ := completed_ldKey_cases x s <;> rw [h]
    · exact fun _ _ => rfl
    · exact keepsRegsBut_setReg (s.advance.setKprev s.keys) x _
  case addIndex x =>
    obtain ⟨-, h⟩ | ⟨-, h⟩ := completed_addIndex_cases x s <;> rw [h]
    · exact keepsRegsBut_setFlag (s.advance.setIndex _) true
    · exact fun _ _ => rfl
  case drw => exact keepsRegsBut_setFlag (s.advance.setDisp _) _
  case loadRegs x =>
    intro j hj
    have hout : ¬j ≤ x := fun hle => hj (by simpa [regsWritten] using hle)
    change (regsFromMem x s)[j.val] = s.reg j
    simp [regsFromMem, hout]
  all_goals exact fun _ _ => rfl

theorem regsUpTo_length (x : Nibble) (s : State) : (regsUpTo x s).length = x.val + 1 := by
  have := x.isLt
  simp only [regsUpTo, List.length_take, Vector.length_toList]
  omega

theorem completed_keepsBytesOutside (i : Instr) (s : State) :
    KeepsBytesOutside (bytesWritten s i).1 (bytesWritten s i).2 s (completed s i) := by
  cases i
  case ldBcd x => exact keepsBytesOutside_writeBytes s s.index.toNat (bcdDigits (s.reg x))
  case storeRegs x =>
    have hlen := regsUpTo_length x s
    have hkeep := keepsBytesOutside_writeBytes s s.index.toNat (regsUpTo x s)
    rw [hlen] at hkeep
    exact hkeep
  all_goals exact keepsBytesOutside_of_kept _ _ (completed_keepsAllBut _ s .mem (by simp [writes]))

theorem completed_pc (i : Instr) (s : State) : (completed s i).pc = pcAfter s i := by
  cases i
  case call nnn => simp [completed, pcAfter, ← BitVec.ofNat_toNat]
  case rnd =>
    have hkept : (consumeRandom s).pc = s.pc := keepsAllBut_consumeRandom s .pc (by decide)
    exact congrArg (· + 2) hkept
  case ldKey x =>
    obtain ⟨hnew, h⟩ | ⟨k, _, hbit, _, h⟩ := completed_ldKey_cases x s <;> rw [h]
    · exact (if_pos hnew).symm
    · refine (if_neg fun hnew => ?_).symm
      rw [newKeys, hnew] at hbit
      simp at hbit
  case addIndex x => obtain ⟨-, h⟩ | ⟨-, h⟩ := completed_addIndex_cases x s <;> rw [h] <;> rfl
  all_goals rfl

/-! The statements. -/

/-- Settles O16: the latch keeps all but `ERR`, and a completed instruction keeps what its writes leave. -/
theorem everyInstructionKeepsWhatItDoesNotWrite : Obligations.EveryInstructionKeepsWhatItDoesNotWrite := by
  unfold Obligations.EveryInstructionKeepsWhatItDoesNotWrite
  intro i s
  obtain ⟨-, hexec⟩ | ⟨c, hc, hexec⟩ := exec_cases i s
  · exact ⟨_, hexec, completed_keepsAllBut i s, completed_keepsRegsBut i s, completed_keepsBytesOutside i s⟩
  · have hmay : [.err] ⊆ writes i := by cases i <;> simp [errorOf, writes] at hc ⊢
    exact ⟨_, hexec, keepsAllBut_mono hmay (keepsAllBut_setErr s _), fun _ _ => rfl, fun _ _ => rfl⟩

/-- Settles O15: the listed condition decides between the latch and the completed state, which keeps `ERR` clear. -/
theorem errorsAreRaisedExactlyAsListed : Obligations.ErrorsAreRaisedExactlyAsListed := by
  unfold Obligations.ErrorsAreRaisedExactlyAsListed
  intro i s hs
  obtain ⟨hnone, hexec⟩ | ⟨c, hc, hexec⟩ := exec_cases i s
  · exact ⟨_, hexec, (completed_err i s).trans (hs.trans hnone.symm)⟩
  · exact ⟨_, hexec, hc.symm⟩

/-- Settles O17: the latch keeps `PC`, and a completed instruction leaves it as the table says. -/
theorem pcAfterEveryInstruction : Obligations.PcAfterEveryInstruction := by
  unfold Obligations.PcAfterEveryInstruction
  intro i s _
  obtain ⟨hnone, hexec⟩ | ⟨c, hc, hexec⟩ := exec_cases i s
  · exact ⟨_, hexec, by simp [hnone, completed_pc]⟩
  · exact ⟨_, hexec, by simp [hc]⟩

end Sys2Proof.Exec
end

section
/-! SUPPORT. What an instruction does not read (rules R17, R26, R49, R139 law 5): a write of an unread part commutes with every instruction. -/

namespace Sys2Proof.Exec

open Sys2Proof.Machine Sys2Proof.Claims Sys2Proof.Frames

/-- A write `f` of the state commutes with `i`: it changes neither the error nor the completed state, but for the write itself. -/
theorem exec_commutes {i : Instr} {s t : State} {f : State → State} (herr : errorOf (f s) i = errorOf s i)
    (hlatch : ∀ c, (f s).setErr c = f (s.setErr c)) (hdone : completed (f s) i = f (completed s i)) (h : exec i s = .next t) :
    exec i (f s) = .next (f t) := by
  obtain ⟨hnone, hexec⟩ | ⟨c, hc, hexec⟩ := exec_cases i s
  · cases hexec.symm.trans h
    rw [exec_of_errorOf_none (herr.trans hnone), hdone]
  · cases hexec.symm.trans h
    rw [exec_of_errorOf_some (herr.trans hc), hlatch]

/-- The errors are conditions on the stack, `I` and the registers alone. -/
theorem errorOf_congr {s t : State} (i : Instr) (hstack : t.stack = s.stack) (hindex : t.index = s.index) (hv : t.v = s.v) :
    errorOf t i = errorOf s i := by
  have hsp : t.sp = s.sp := congrArg List.length hstack
  have hreg := State.reg_congr s t hv
  cases i <;> simp only [errorOf, hstack, hsp, hindex, hreg]

/-! The three instructions with a case distinction of their own: a write `f` that leaves what they distinguish and commutes with each case. -/

section
variable {s : State} {x : Nibble} (f : State → State)

theorem rnd_commutes {nn : Byte} (hin : (f s).rndIn = s.rndIn) (hdraws : (f s).draws = s.draws)
    (hset : ∀ l n b, ((f s).setRandom l n).advance.setReg x b = f ((s.setRandom l n).advance.setReg x b)) :
    completed (f s) (.rnd x nn) = f (completed s (.rnd x nn)) := by
  simp only [completed, consumeRandom, randomByte, hin, hdraws]
  cases s.rndIn <;> exact hset _ _ _

theorem ldKey_commutes (hnew : newKeys (f s) = newKeys s) (hwait : (f s).setKprev (f s).keys = f (s.setKprev s.keys))
    (htake : ∀ b, ((f s).advance.setKprev (f s).keys).setReg x b = f ((s.advance.setKprev s.keys).setReg x b)) :
    completed (f s) (.ldKey x) = f (completed s (.ldKey x)) := by
  simp only [completed, hnew]
  cases lowestKey (newKeys s) with
  | none => exact hwait
  | some k => exact htake _

theorem addIndex_commutes
    (hsum : completed (f s) (.addIndex x) =
      if s.quirks.indexOverflowFlag && indexOverflow s.index (s.reg x) then
        f ((s.advance.setIndex (s.index + (s.reg x).setWidth 16)).setFlag true)
      else f (s.advance.setIndex (s.index + (s.reg x).setWidth 16))) :
    completed (f s) (.addIndex x) = f (completed s (.addIndex x)) :=
  hsum.trans (apply_ite f _ _ _).symm

end

section
variable {i : Instr} (s : State)

theorem completed_setMem (m : Memory) (hdrw : ∀ x y n, i ≠ .drw x y n)
    (hmem : ∀ x, i ≠ .ldBcd x ∧ i ≠ .storeRegs x ∧ i ≠ .loadRegs x) :
    completed (s.setMem m) i = (completed s i).setMem m := by
  cases i
  case drw x y n => exact absurd rfl (hdrw x y n)
  case ldBcd x => exact absurd rfl (hmem x).1
  case storeRegs x => exact absurd rfl (hmem x).2.1
  case loadRegs x => exact absurd rfl (hmem x).2.2
  case rnd => exact rnd_commutes (·.setMem m) rfl rfl fun _ _ _ => rfl
  case ldKey => exact ldKey_commutes (·.setMem m) rfl rfl fun _ => rfl
  case addIndex => exact addIndex_commutes (·.setMem m) rfl
  all_goals rfl

theorem completed_setDisp (d : Display) (hcls : i ≠ .cls) (hdrw : ∀ x y n, i ≠ .drw x y n) :
    completed (s.setDisp d) i = (completed s i).setDisp d := by
  cases i
  case cls => exact absurd rfl hcls
  case drw x y n => exact absurd rfl (hdrw x y n)
  case rnd => exact rnd_commutes (·.setDisp d) rfl rfl fun _ _ _ => rfl
  case ldKey => exact ldKey_commutes (·.setDisp d) rfl rfl fun _ => rfl
  case addIndex => exact addIndex_commutes (·.setDisp d) rfl
  all_goals rfl

theorem completed_setRandom (l : List Byte) (n : Nat) (hrnd : ∀ x nn, i ≠ .rnd x nn) :
    completed (s.setRandom l n) i = (completed s i).setRandom l n := by
  cases i
  case rnd x nn => exact absurd rfl (hrnd x nn)
  case ldKey => exact ldKey_commutes (·.setRandom l n) rfl rfl fun _ => rfl
  case addIndex => exact addIndex_commutes (·.setRandom l n) rfl
  all_goals rfl

theorem completed_setSt (b : Byte) (hst : ∀ x, i ≠ .ldSt x) : completed (s.setSt b) i = (completed s i).setSt b := by
  cases i
  case ldSt x => exact absurd rfl (hst x)
  case rnd => exact rnd_commutes (·.setSt b) rfl rfl fun _ _ _ => rfl
  case ldKey => exact ldKey_commutes (·.setSt b) rfl rfl fun _ => rfl
  case addIndex => exact addIndex_commutes (·.setSt b) rfl
  all_goals rfl

theorem completed_setHost (l : List Event) (b : Bool) :
    completed ((s.setPending l).setRomOpen b) i = ((completed s i).setPending l).setRomOpen b := by
  cases i
  case rnd => exact rnd_commutes (fun s => (s.setPending l).setRomOpen b) rfl rfl fun _ _ _ => rfl
  case ldKey => exact ldKey_commutes (fun s => (s.setPending l).setRomOpen b) rfl rfl fun _ => rfl
  case addIndex => exact addIndex_commutes (fun s => (s.setPending l).setRomOpen b) rfl
  all_goals rfl

end

/-- Settles O52: each of the five writes leaves the error as it is and commutes with the completed state. -/
theorem instructionsIgnoreWhatTheyDoNotRead : Obligations.InstructionsIgnoreWhatTheyDoNotRead := by
  unfold Obligations.InstructionsIgnoreWhatTheyDoNotRead
  intro i s t h
  refine ⟨fun hdrw hmem m => ?_, fun hcls hdrw d => ?_, fun hrnd l n => ?_, fun hst b => ?_, fun l b => ?_⟩
  · exact exec_commutes (f := (·.setMem m)) (errorOf_congr i rfl rfl rfl) (fun _ => rfl) (completed_setMem s m hdrw hmem) h
  · exact exec_commutes (f := (·.setDisp d)) (errorOf_congr i rfl rfl rfl) (fun _ => rfl) (completed_setDisp s d hcls hdrw) h
  · exact exec_commutes (f := (·.setRandom l n)) (errorOf_congr i rfl rfl rfl) (fun _ => rfl) (completed_setRandom s l n hrnd) h
  · exact exec_commutes (f := (·.setSt b)) (errorOf_congr i rfl rfl rfl) (fun _ => rfl) (completed_setSt s b hst) h
  · exact exec_commutes (f := fun s => (s.setPending l).setRomOpen b) (errorOf_congr i rfl rfl rfl) (fun _ => rfl)
      (completed_setHost s l b) h

end Sys2Proof.Exec
end

section
/-! SUPPORT. The cycle case by case, and the statements about a step that rest on it (rules R44, R47, R68, R80, R170, R173 to R176, R188, R200). -/

namespace Sys2Proof.Cycle

open Sys2Proof.Machine Sys2Proof.Claims Sys2Proof.Encoding Sys2Proof.Frames Sys2Proof.Flow Sys2Proof.Events Sys2Proof.Exec

/-! Fetch. -/

theorem fetch_of_lt {a : Nat} (s : State) (h : a + 1 < 4096) : fetch a s = .ok (compose (s.byte a) (s.byte (a + 1))) := by
  obtain ⟨hout, -⟩ | ⟨-, hf⟩ := fetch_cases a s
  · exact absurd h (Nat.not_lt.mpr hout)
  · exact hf

theorem rising_of_wf {m : Memory} (h : Memory.wf m = true) : Memory.rising none m = true := by
  rw [Memory.wf, Bool.and_eq_true] at h
  exact h.1

/-- The bytes of a stored word are the ones the composer puts together again. -/
theorem fetch_writeBytes {s : State} {a : Nat} (w : Word) (hwf : Memory.wf s.mem = true) (ha : a + 1 < 4096) :
    fetch a (s.setMem (Memory.writeBytes s.mem a (wordBytes w))) = .ok w := by
  have hrise := rising_of_wf hwf
  have hhigh : Memory.read (Memory.writeBytes s.mem a (wordBytes w)) a = highByte w :=
    Memory.read_writeBytes_inside (wordBytes w) s.mem a 0 (by simp [wordBytes]) hrise
  have hlow : Memory.read (Memory.writeBytes s.mem a (wordBytes w)) (a + 1) = lowByte w :=
    Memory.read_writeBytes_inside (wordBytes w) s.mem a 1 (by simp [wordBytes]) hrise
  rw [fetch_of_lt _ ha, State.byte_setMem, State.byte_setMem, hhigh, hlow, compose_bytes]

/-- Settles O35: each byte written is what its address reads as, and the two compose to the word. -/
theorem fetchSeesTheStoredWord : Obligations.FetchSeesTheStoredWord := by
  unfold Obligations.FetchSeesTheStoredWord
  exact fun _ _ w => fetch_writeBytes w

/-! The cycle. -/

section
variable {s : State} {w : Word} {i : Instr} {e : DecodeError}

theorem cycle_of_error (h : s.err ≠ none) : cycle s = .next s := by
  obtain ⟨c, hc⟩ := Option.ne_none_iff_exists'.mp h
  simp [cycle, hc]

theorem cycle_of_overrun (h : s.err = none) (hpc : 0xFFF ≤ s.pc.toNat) : cycle s = raise (.fetchOverrun s.pc.toNat) s := by
  obtain ⟨-, hf⟩ | ⟨hin, -⟩ := fetch_cases s.pc.toNat s
  · simp only [cycle, h, hf]
  · exact absurd (Nat.succ_le_succ hpc) (Nat.not_le.mpr hin)

theorem cycle_of_known (h : s.err = none) (hf : fetch s.pc.toNat s = .ok w) (hd : decodeWord w = .ok i) :
    cycle s = exec i (s.setRomOpen false) := by
  simp only [cycle, h, hf, hd]

theorem cycle_of_unknown (h : s.err = none) (hf : fetch s.pc.toNat s = .ok w) (hd : decodeWord w = .error e) :
    cycle s = .next (s.setRomOpen false).advance := by
  simp only [cycle, h, hf, hd]

theorem step_of_no_pending (h : s.pending = []) : step s = cycle s := by
  simp [step, h]

theorem strobe_of_unknown (h : s.err = none) (hf : fetch s.pc.toNat s = .ok w) (hd : decodeWord w = .error e) :
    strobe s = some w := by
  simp only [strobe, h, hf, hd]

theorem strobe_of_known (hf : fetch s.pc.toNat s = .ok w) (hd : decodeWord w = .ok i) : strobe s = none := by
  cases h : s.err <;> simp only [strobe, h, hf, hd]

/-- A word no row of the map accepts does not decode. -/
theorem decodeWord_error_of_no_row (h : ∀ r ∈ opcodeTable, w &&& r.mask ≠ r.pattern) : ∃ e, decodeWord w = .error e := by
  cases hd : decodeWord w with
  | error e => exact ⟨e, rfl⟩
  | ok i =>
    have haccepts := (row_accepts_iff _ _).mp (accepts_of_decodeWord hd)
    exact absurd haccepts (h _ (rowOf_mem_opcodeTable i))

theorem decodeWord_of_decode_pair {a b : Byte} (h : decode [a, b] = .ok (i, [])) : decodeWord (compose a b) = .ok i := by
  cases hd : decodeWord (compose a b) <;> simp only [decode, hd] at h <;> cases h
  rfl

end

/-- Settles O10: the fetched word is the two bytes composed; around `exec` a cycle only closes the time of loading. -/
theorem stepRunsTheDecodedInstruction : Obligations.StepRunsTheDecodedInstruction := by
  unfold Obligations.StepRunsTheDecodedInstruction
  intro s i herr hpc hdec
  have hd := decodeWord_of_decode_pair hdec
  refine ⟨fun hp => ?_, fun rest hp => ?_⟩
  · rw [step_of_no_pending hp]
    exact cycle_of_known herr (fetch_of_lt s hpc) hd
  · rw [step_of_pending hp]
    exact cycle_of_known (s := s.setPending rest) herr (fetch_of_lt _ hpc) hd

/-- Settles O11: a word of no row does not decode, so the cycle advances `PC` and the strobe shows the word. -/
theorem unknownOpcodeOnlyAdvancesPc : Obligations.UnknownOpcodeOnlyAdvancesPc := by
  unfold Obligations.UnknownOpcodeOnlyAdvancesPc
  refine ⟨fun s w herr hp hf hrows => ?_, fun _ _ _ => strobe_of_known, by decide⟩
  obtain ⟨e, hd⟩ := decodeWord_error_of_no_row hrows
  refine ⟨⟨_, (step_of_no_pending hp).trans (cycle_of_unknown herr hf hd), rfl, ?_⟩, strobe_of_unknown herr hf hd⟩
  exact keepsAllBut_mono (by decide) (keepsAllBut_trans (keepsAllBut_setRomOpen s false) (keepsAllBut_advance _))

/-- Settles O12: the fetch fails before anything is written, and the latch keeps all but `ERR`. -/
theorem fetchBeyondMemoryLatchesTheError : Obligations.FetchBeyondMemoryLatchesTheError := by
  unfold Obligations.FetchBeyondMemoryLatchesTheError
  intro s herr hp hpc
  rw [step_of_no_pending hp, cycle_of_overrun herr hpc]
  exact failsWith_raise _ s

/-! The halted machine (rule R175). -/

theorem loadRom_of_error {s : State} (bytes : List Byte) (h : s.err ≠ none) : loadRom bytes s = .next s := by
  obtain ⟨c, hc⟩ := Option.ne_none_iff_exists'.mp h
  simp [loadRom, hc]

theorem perform_of_error {e : Event} {s : State} (h : s.err ≠ none) (he : ∀ q, e ≠ .reset q) : perform e s = .next s := by
  cases e with
  | reset q => exact absurd rfl (he q)
  | loadRom bytes => exact loadRom_of_error bytes h
  | keypadUpdate k => exact congrArg _ (keypadUpdate_of_error k h)
  | tick => exact congrArg _ (tick_of_error h)
  | step => exact cycle_of_error h

/-- Settles O13: each event but `Reset` tests `ERR` first. -/
theorem haltedUntilReset : Obligations.HaltedUntilReset := by
  unfold Obligations.HaltedUntilReset
  refine ⟨fun s e rest herr hp he => ?_, fun s herr hp => ?_, fun s q rest hp => ?_⟩
  · rw [step_of_pending hp]
    exact perform_of_error herr he
  · rw [step_of_no_pending hp]
    exact cycle_of_error herr
  · exact ⟨_, step_of_pending hp, rfl⟩

/-! Which steps answer a next state (rules R173, R188). -/

theorem exec_next (i : Instr) (s : State) : ∃ t, exec i s = .next t := by
  obtain ⟨-, h⟩ | ⟨c, -, h⟩ := exec_cases i s <;> exact ⟨_, h⟩

theorem cycle_next (s : State) : ∃ t, cycle s = .next t := by
  obtain ⟨-, h⟩ | ⟨-, -, h⟩ | ⟨-, -, _, -, h⟩ | ⟨-, -, i, -, h⟩ := cycle_cases s
  · exact ⟨_, h⟩
  · exact ⟨_, h⟩
  · exact ⟨_, h⟩
  · rw [h]
    exact exec_next i _

theorem perform_next_or_refused (e : Event) (s : State) :
    (∃ t, perform e s = .next t) ∨
    (perform e s = .refused .loadRomNotAfterReset ∧ s.err = none ∧ s.romOpen = false ∧ ∃ bytes, e = .loadRom bytes) := by
  cases e with
  | loadRom bytes =>
    obtain ⟨-, h⟩ | ⟨herr, hopen, h⟩ | ⟨-, -, -, h⟩ | ⟨-, -, -, h⟩ := loadRom_cases bytes s
    · exact .inl ⟨_, h⟩
    · exact .inr ⟨h, herr, hopen, bytes, rfl⟩
    · exact .inl ⟨_, h⟩
    · exact .inl ⟨_, h⟩
  | step => exact .inl (cycle_next s)
  | reset _ | keypadUpdate _ | tick => exact .inl ⟨_, rfl⟩

/-- Settles O20: every cycle answers a next state, and of the events only a load can be refused. -/
theorem onlyAMisplacedLoadIsRefused : Obligations.OnlyAMisplacedLoadIsRefused := by
  unfold Obligations.OnlyAMisplacedLoadIsRefused
  intro s
  obtain ⟨-, hstep⟩ | ⟨e, rest, hp, hstep⟩ := step_cases s <;> rw [hstep]
  · exact .inl (cycle_next s)
  · obtain hnext | ⟨href, herr, hopen, bytes, rfl⟩ := perform_next_or_refused e (s.setPending rest)
    · exact .inl hnext
    · exact .inr ⟨href, herr, hopen, bytes, rest, hp⟩

/-! Errors are precise (rule R174). -/

/-- A cycle that ends in a fresh error has only latched it and closed the time of loading. -/
theorem cycle_precise {s t : State} (herr : s.err = none) (h : cycle s = .next t) (ht : t.err ≠ none) :
    KeepsAllBut [.err, .romOpen] s t := by
  obtain ⟨hhalt, -⟩ | ⟨-, -, hc⟩ | ⟨-, -, _, -, hc⟩ | ⟨-, -, i, -, hc⟩ := cycle_cases s
  · exact absurd herr hhalt
  · cases hc.symm.trans h
    exact keepsAllBut_mono (by decide) (keepsAllBut_setErr s _)
  · cases hc.symm.trans h
    exact absurd herr ht
  · obtain ⟨-, hexec⟩ | ⟨c, -, hexec⟩ := exec_cases i (s.setRomOpen false)
    · cases (hc.trans hexec).symm.trans h
      exact absurd ((completed_err i (s.setRomOpen false)).trans herr) ht
    · cases (hc.trans hexec).symm.trans h
      exact keepsAllBut_mono (by decide) (keepsAllBut_trans (keepsAllBut_setRomOpen s false) (keepsAllBut_setErr _ _))

theorem perform_precise {e : Event} {s t : State} (herr : s.err = none) (h : perform e s = .next t) (ht : t.err ≠ none) :
    KeepsAllBut [.err, .romOpen] s t := by
  cases e with
  | reset q => cases h; exact absurd rfl ht
  | keypadUpdate k =>
    cases h
    rw [keypadUpdate_of_noError s k herr] at ht
    exact absurd herr ht
  | tick =>
    cases h
    rw [tick_of_noError s herr] at ht
    exact absurd herr ht
  | step => exact cycle_precise herr h ht
  | loadRom bytes =>
    obtain ⟨hhalt, -⟩ | ⟨-, -, hl⟩ | ⟨-, -, -, hl⟩ | ⟨-, -, -, hl⟩ := loadRom_cases bytes s
    · exact absurd herr hhalt
    · cases hl.symm.trans h
    · cases hl.symm.trans h
      exact keepsAllBut_mono (by decide) (keepsAllBut_setErr s _)
    · cases hl.symm.trans h
      exact absurd herr ht

/-- Settles O14: of all that a step can do, only the latch itself leaves a fresh error. -/
theorem fatalErrorsArePrecise : Obligations.FatalErrorsArePrecise := by
  unfold Obligations.FatalErrorsArePrecise
  intro s t herr hstep ht
  obtain ⟨-, hs⟩ | ⟨e, rest, -, hs⟩ := step_cases s
  · exact keepsAllBut_mono (by decide) (cycle_precise herr (hs.symm.trans hstep) ht)
  · have hkeep := perform_precise (s := s.setPending rest) herr (hs.symm.trans hstep) ht
    exact keepsAllBut_mono (by decide) (keepsAllBut_trans (keepsAllBut_setPending s rest) hkeep)

/-! The quiescent machine (rule R200). -/

theorem quiescent_iff (s : State) :
    s.quiescent = true ↔ s.err = none ∧ ∃ w nnn, fetch s.pc.toNat s = .ok w ∧ decodeWord w = .ok (.jp nnn) ∧ zext16 nnn = s.pc := by
  constructor
  · intro h
    unfold State.quiescent at h
    split at h
    · next w herr hf =>
      split at h
      · next nnn hd => exact ⟨herr, w, nnn, hf, hd, beq_iff_eq.mp h⟩
      · cases h
    · cases h
  · rintro ⟨herr, w, nnn, hf, hd, hself⟩
    simp [State.quiescent, herr, hf, hd, hself]

/-- Settles O51: the cycle is a jump to the `PC` it is at, and the word at `PC` does not depend on `romOpen`. -/
theorem quiescentMachineStays : Obligations.QuiescentMachineStays := by
  unfold Obligations.QuiescentMachineStays
  intro s hq hp
  obtain ⟨herr, w, nnn, hf, hd, hself⟩ := (quiescent_iff s).mp hq
  refine ⟨?_, (quiescent_iff _).mpr ⟨herr, w, nnn, hf, hd, hself⟩⟩
  rw [step_of_no_pending hp, cycle_of_known herr hf hd, exec_jp, hself]
  rfl

/-! The word placed for the next step (rule R67; log entry 14). -/

theorem decodeWord_of_decodeTableWord {nbits w : Nat} {i : Instr} (h : decodeTableWord nbits w = some i) :
    decodeWord (tableWord nbits w) = .ok i := by
  have hdec := decode_wordBytes_append (tableWord nbits w) []
  rw [List.append_nil] at hdec
  cases hd : decodeWord (tableWord nbits w) <;> simp only [decodeTableWord, hdec, hd, Except.map] at h <;> cases h
  rfl

/-- Where the word is placed: at `PC` if a fetch there can succeed, else at the reset entry. -/
def placeAddress (s : State) : Word := if s.pc.toNat + 1 < 4096 then s.pc else 0x0200

theorem placeAddress_lt (s : State) : (placeAddress s).toNat + 1 < 4096 := by
  unfold placeAddress
  split
  · assumption
  · decide

theorem placeWord_eq (s : State) (w : Word) :
    placeWord s w = (((s.setPending []).setErr none).setPc (placeAddress s)).setMem
      (Memory.writeBytes s.mem (placeAddress s).toNat (wordBytes w)) := rfl

/-- Settles O36: the placed word is the one fetched, and the placing writes the two bytes at `PC` and what a fetch needs. -/
theorem placedWordIsTheNextInstruction : Obligations.PlacedWordIsTheNextInstruction := by
  unfold Obligations.PlacedWordIsTheNextInstruction
  intro s w i hwf hdec
  have hf := fetch_writeBytes (s := ((s.setPending []).setErr none).setPc (placeAddress s)) (tableWord 16 w) hwf (placeAddress_lt s)
  have hcycle := cycle_of_known (s := placeWord s (tableWord 16 w)) rfl hf (decodeWord_of_decodeTableWord hdec)
  refine ⟨(placeWord s (tableWord 16 w)).setRomOpen false, hcycle, fun hpc => if_pos hpc, ?_, ?_⟩
  · exact fun a ha => Memory.read_writeBytes_outside (wordBytes (tableWord 16 w)) s.mem (placeAddress s).toNat a ha
  · rw [placeWord_eq]
    refine keepsAllBut_mono (by decide) (keepsAllBut_trans (keepsAllBut_trans (keepsAllBut_trans (keepsAllBut_trans
      (keepsAllBut_setPending s []) (keepsAllBut_setErr _ none)) (keepsAllBut_setPc _ _)) (keepsAllBut_setMem _ _))
      (keepsAllBut_setRomOpen _ false))

end Sys2Proof.Cycle
end

section
/-! SUPPORT. The invariant, kept by every completed instruction and by every event (rules R14, R15, R40, R82). -/

namespace Sys2Proof.Invariant

open Sys2Proof.Machine Sys2Proof.Claims Sys2Proof.Frames Sys2Proof.Flow Sys2Proof.Events Sys2Proof.Exec Sys2Proof.Cycle

/-- The invariant speaks of memory, stack and `PC` alone. -/
theorem inv_congr {s t : State} (h : Inv s) (hmem : t.mem = s.mem) (hstack : t.stack = s.stack) (hpc : t.pc = s.pc) : Inv t where
  memory := hmem ▸ h.memory
  depth := by rw [State.sp, hstack]; exact h.depth
  returns := hstack ▸ h.returns
  counter := hpc ▸ h.counter

theorem inv_resetWith (q : Quirks) : Inv (State.resetWith q) where
  memory := Memory.wf_reset q
  depth := Nat.zero_le _
  returns := fun _ hw => absurd hw List.not_mem_nil
  counter := show (0x0200 : Word).toNat ≤ 0x10FE by decide

/-- Settles O19: the base case of the invariant, for all quirks. -/
theorem invariantHoldsAfterReset : Obligations.InvariantHoldsAfterReset := by
  unfold Obligations.InvariantHoldsAfterReset
  exact ⟨inv_resetWith, inv_resetWith defaultQuirks⟩

/-! Completed instructions. -/

section
variable {s : State} (i : Instr)

theorem completed_mem_wf (hwf : Memory.wf s.mem = true) (hok : errorOf s i = none) : Memory.wf (completed s i).mem = true := by
  cases i
  case ldBcd x =>
    have hin : s.index.toNat + 2 ≤ 0xFFF := by simpa [errorOf] using hok
    exact Memory.wf_writeBytes (bcdDigits (s.reg x)) s.mem s.index.toNat (Nat.succ_le_succ hin) hwf
  case storeRegs x =>
    have hin : s.index.toNat + x.val ≤ 0xFFF := by simpa [errorOf] using hok
    have hlen := regsUpTo_length x s
    exact Memory.wf_writeBytes (regsUpTo x s) s.mem s.index.toNat (hlen ▸ Nat.succ_le_succ hin) hwf
  case rnd => obtain ⟨_, _, _, _, h⟩ | ⟨_, _, h⟩ := consumeRandom_cases s <;> simpa [completed, h] using hwf
  case ldKey x => obtain ⟨-, h⟩ | ⟨_, _, _, _, h⟩ := completed_ldKey_cases x s <;> simpa [h] using hwf
  case addIndex x => obtain ⟨-, h⟩ | ⟨-, h⟩ := completed_addIndex_cases x s <;> simpa [h] using hwf
  all_goals exact hwf

theorem pc_add_two_toNat (hpc : s.pc.toNat + 1 < 4096) : (s.pc + 2).toNat = s.pc.toNat + 2 := by
  bv_omega

/-- The stack of a completed instruction: as it was, one entry shorter, or one entry longer where there was room (rule R16). -/
theorem completed_stack_cases (hok : errorOf s i = none) :
    (completed s i).stack = s.stack ∨ (completed s i).stack = s.stack.tail ∨
      (s.sp < 16 ∧ (completed s i).stack = (s.pc + 2) :: s.stack) := by
  cases i
  case ret => exact .inr (.inl rfl)
  case call =>
    have hroom : s.sp < 16 := by simpa [errorOf] using hok
    exact .inr (.inr ⟨hroom, rfl⟩)
  all_goals exact .inl (completed_keepsAllBut _ s .stack (by simp [writes]))

/-- Two skips ahead of a fetched word is still below the bound, which BNNN alone can reach (rule R14). -/
theorem pcAfter_le (hinv : Inv s) (hpc : s.pc.toNat + 1 < 4096) (hok : errorOf s i = none) : (pcAfter s i).toNat ≤ 0x10FE := by
  have htwo : (s.pc + 2).toNat ≤ 0x10FE := by rw [pc_add_two_toNat hpc]; omega
  have hfour : (s.pc + 4).toNat ≤ 0x10FE := by bv_omega
  cases i
  case ret =>
    cases hs : s.stack with
    | nil => simp [errorOf, hs] at hok
    | cons w rest =>
      have hw := hinv.returns w (by simp [hs])
      simp only [pcAfter, hs, List.headD_cons]
      omega
  case jp nnn | call nnn =>
    have := nnn.isLt
    simp only [pcAfter, BitVec.toNat_ofNat]
    omega
  case jpOffset nnn =>
    have := offsetTarget_le s nnn
    simp only [pcAfter, BitVec.toNat_ofNat]
    omega
  case ldKey => simp only [pcAfter]; split; exacts [hinv.counter, htwo]
  case sknp => simp only [pcAfter]; split; exacts [htwo, hfour]
  all_goals simp only [pcAfter]; split; exacts [hfour, htwo]

theorem inv_completed (hinv : Inv s) (hpc : s.pc.toNat + 1 < 4096) (hok : errorOf s i = none) : Inv (completed s i) where
  memory := completed_mem_wf i hinv.memory hok
  depth := by
    have hdepth : s.stack.length ≤ 16 := hinv.depth
    obtain h | h | ⟨hroom, h⟩ := completed_stack_cases i hok <;> rw [State.sp, h]
    · exact hdepth
    · exact (s.stack.tail_sublist.length_le).trans hdepth
    · exact hroom
  returns := by
    obtain h | h | ⟨-, h⟩ := completed_stack_cases i hok <;> rw [h]
    · exact hinv.returns
    · exact fun w hw => hinv.returns w (List.mem_of_mem_tail hw)
    · intro w hw
      obtain rfl | hw := List.mem_cons.mp hw
      · rw [pc_add_two_toNat hpc]
        omega
      · exact hinv.returns w hw
  counter := by
    rw [completed_pc]
    exact pcAfter_le i hinv hpc hok

end

/-! Events. -/

theorem inv_cycle {s t : State} (hinv : Inv s) (h : cycle s = .next t) : Inv t := by
  obtain ⟨-, hc⟩ | ⟨-, -, hc⟩ | ⟨-, hpc, _, -, hc⟩ | ⟨-, hpc, i, -, hc⟩ := cycle_cases s
  · cases hc.symm.trans h
    exact hinv
  · cases hc.symm.trans h
    exact inv_congr hinv rfl rfl rfl
  · cases hc.symm.trans h
    have hpc : s.pc.toNat + 1 < 4096 := hpc
    refine ⟨hinv.memory, hinv.depth, hinv.returns, ?_⟩
    rw [State.advance_pc, State.setRomOpen_pc, pc_add_two_toNat hpc]
    omega
  · have hopen : Inv (s.setRomOpen false) := inv_congr hinv rfl rfl rfl
    obtain ⟨hok, hexec⟩ | ⟨c, -, hexec⟩ := exec_cases i (s.setRomOpen false)
    · cases (hc.trans hexec).symm.trans h
      exact inv_completed i hopen hpc hok
    · cases (hc.trans hexec).symm.trans h
      exact inv_congr hopen rfl rfl rfl

theorem inv_loadRom {bytes : List Byte} {s t : State} (hinv : Inv s) (h : loadRom bytes s = .next t) : Inv t := by
  obtain ⟨-, hl⟩ | ⟨-, -, hl⟩ | ⟨-, -, -, hl⟩ | ⟨-, -, hfits, hl⟩ := loadRom_cases bytes s <;> cases hl.symm.trans h
  · exact hinv
  · exact inv_congr hinv rfl rfl rfl
  · have hrange : Config.romBase + bytes.length ≤ Config.memSize := by
      simp only [Config.romMax, Config.romBase, Config.memSize] at hfits ⊢
      omega
    exact ⟨Memory.wf_writeBytes bytes s.mem Config.romBase hrange hinv.memory, hinv.depth, hinv.returns, hinv.counter⟩

theorem inv_perform {e : Event} {s t : State} (hinv : Inv s) (h : perform e s = .next t) : Inv t := by
  cases e with
  | reset q => cases h; exact inv_congr (inv_resetWith q) rfl rfl rfl
  | loadRom bytes => exact inv_loadRom hinv h
  | step => exact inv_cycle hinv h
  | keypadUpdate k =>
    cases h
    unfold keypadUpdate
    split
    · exact hinv
    · exact inv_congr hinv rfl rfl rfl
  | tick =>
    cases h
    unfold tick
    split
    · exact hinv
    · exact inv_congr hinv rfl rfl rfl

/-- Settles O18: a cycle or an event keeps the invariant, and taking the event off the list touches nothing of it. -/
theorem everyStepKeepsTheInvariant : Obligations.EveryStepKeepsTheInvariant := by
  unfold Obligations.EveryStepKeepsTheInvariant
  intro s t hinv hstep
  obtain ⟨-, hs⟩ | ⟨e, rest, -, hs⟩ := step_cases s
  · exact inv_cycle hinv (hs.symm.trans hstep)
  · exact inv_perform (s := s.setPending rest) (inv_congr hinv rfl rfl rfl) (hs.symm.trans hstep)

end Sys2Proof.Invariant
end

section
/-! SUPPORT. The timers over many ticks, and the statements about the host's events (rules R28, R180, R190, R192; 90_conflicts.md C1). -/

namespace Sys2Proof.Events

open Sys2Proof.Machine Sys2Proof.Claims Sys2Proof.Frames Sys2Proof.Cycle

theorem tick_iterate_toNat (n : Nat) (s : State) (h : s.err = none) :
    (tick^[n] s).dt.toNat = s.dt.toNat - n ∧ (tick^[n] s).st.toNat = s.st.toNat - n := by
  induction n generalizing s with
  | zero => exact ⟨rfl, rfl⟩
  | succ n ih =>
    have htick := tick_of_noError s h
    have herr : (tick s).err = none := by rw [htick]; exact h
    have hdt : (tick s).dt.toNat = s.dt.toNat - 1 := by rw [htick]; exact countDown_toNat s.dt
    have hst : (tick s).st.toNat = s.st.toNat - 1 := by rw [htick]; exact countDown_toNat s.st
    obtain ⟨ihdt, ihst⟩ := ih (tick s) herr
    rw [Function.iterate_succ_apply, ihdt, ihst, hdt, hst]
    omega

/-- Settles O46: each tick takes one off each timer, floored at 0, and leaves no error. -/
theorem timersReachZeroAndStay : Obligations.TimersReachZeroAndStay := by
  unfold Obligations.TimersReachZeroAndStay
  exact tick_iterate_toNat

/-- Settles O48: both events test `ERR` and close the time of loading; besides, one writes `KEYS` and the other the timers. -/
theorem keypadUpdateAndTickCommute : Obligations.KeypadUpdateAndTickCommute := by
  unfold Obligations.KeypadUpdateAndTickCommute
  intro s k
  by_cases h : s.err = none
  · rw [keypadUpdate_of_noError s k h, tick_of_noError s h]
    exact (tick_of_noError ((s.setKeys k).setRomOpen false) h).trans
      (keypadUpdate_of_noError (((s.setDt (countDown s.dt)).setSt (countDown s.st)).setRomOpen false) k h).symm
  · rw [keypadUpdate_of_error k h, tick_of_error h, keypadUpdate_of_error k h]

/-! Reset (rules R28, R190). -/

theorem unlisted_font {j : Nat} (hj : j < 80) : Memory.unlisted (0x050 + j) = font.getD j 0 := by
  have hin : Config.fontBase ≤ 0x050 + j ∧ 0x050 + j < Config.fontBase + Config.fontSize :=
    ⟨Nat.le_add_right _ _, Nat.add_lt_add_left hj _⟩
  rw [Memory.unlisted, if_pos hin, Config.fontBase, Nat.add_sub_cancel_left]
  rfl

theorem unlisted_of_not_font {a : Nat} (ha : a < 0x050 ∨ 0x0A0 ≤ a) : Memory.unlisted a = 0x00 := by
  have hout : ¬(Config.fontBase ≤ a ∧ a < Config.fontBase + Config.fontSize) := by
    simp only [Config.fontBase, Config.fontSize]
    omega
  rw [Memory.unlisted, if_neg hout]
  rfl

/-- Settles O49: reset memory lists no byte, so each address reads as its unlisted byte; every other element is a field of the reset state. -/
theorem resetSetsEveryElement : Obligations.ResetSetsEveryElement := by
  unfold Obligations.ResetSetsEveryElement
  intro s q rest hp
  have hreg (j : Nibble) : (resetEvent q (s.setPending rest)).reg j = 0 := Vector.getElem_replicate _
  exact ⟨_, step_of_pending hp, rfl, rfl, hreg, rfl, rfl, rfl, rfl, fun _ => unlisted_font, fun _ => unlisted_of_not_font,
    Display.get_clear, rfl, rfl, rfl, rfl⟩

/-! Load (rule R192). -/

/-- Settles O50: the four ways a load goes, told apart by `romOpen` and the length. -/
theorem loadRomPlacesTheBytes : Obligations.LoadRomPlacesTheBytes := by
  unfold Obligations.LoadRomPlacesTheBytes
  intro s bytes herr
  obtain ⟨hhalt, -⟩ | ⟨-, hopen, hl⟩ | ⟨-, hopen, hlong, hl⟩ | ⟨-, hopen, hfits, hl⟩ := loadRom_cases bytes s
  · exact absurd herr hhalt
  · simp [hopen, hl]
  · have hlong : 3584 < bytes.length := hlong
    simp only [hopen, hl, Bool.true_eq_false, false_imp_iff, and_true]
    exact ⟨fun _ _ hle => absurd hlong (Nat.not_lt.mpr hle), fun _ _ => ⟨_, rfl, rfl, keepsAllBut_setErr s _⟩⟩
  · have hfits : bytes.length ≤ 3584 := hfits
    simp only [hopen, hl, Bool.true_eq_false, false_imp_iff, and_true]
    refine ⟨fun _ hwf _ => ⟨_, rfl, fun j hj => ?_, ?_, rfl, ?_⟩, fun _ hlong => absurd hlong (Nat.not_lt.mpr hfits)⟩
    · exact Memory.read_writeBytes_inside bytes s.mem 0x200 j hj (rising_of_wf hwf)
    · exact keepsBytesOutside_writeBytes s 0x200 bytes
    · exact keepsAllBut_trans (keepsAllBut_setMem s _) (keepsAllBut_setRomOpen _ false)

end Sys2Proof.Events
end

section
/-! SUPPORT. The instructions that compute a register and VF, and the random byte: the statements of the family 41_alu.md about them (rules R106 to
R111, R113). -/

namespace Sys2Proof.Alu

open Sys2Proof.Machine Sys2Proof.Claims Sys2Proof.Encoding Sys2Proof.Frames Sys2Proof.Exec

theorem shifted_eq (s : State) (x y : Nibble) : shifted s x y = (shiftOperand x y s).toNat := by
  unfold shifted shiftOperand
  split <;> rfl

theorem flagByte_decide_toNat (p : Prop) [Decidable p] : (flagByte (decide p)).toNat = if p then 1 else 0 := by
  by_cases h : p <;> simp [flagByte, h]

theorem flagByte_lowBit_toNat (b : Byte) : (flagByte (lowBit b)).toNat = b.toNat % 2 := by
  rw [flagByte_toNat, lowBit, BitVec.getLsbD, Nat.testBit_zero]
  obtain h | h := Nat.mod_two_eq_zero_or_one b.toNat <;> simp [h]

theorem flagByte_highBit_toNat (b : Byte) : (flagByte (highBit b)).toNat = b.toNat / 128 := by
  have := b.isLt
  rw [flagByte_toNat, highBit, BitVec.getLsbD, Nat.testBit_eq_decide_div_mod_eq]
  obtain h | h : b.toNat / 128 = 0 ∨ b.toNat / 128 = 1 := by omega
  all_goals simp only [Nat.reducePow, h]; decide

/-- Each of the five writes a result and then a flag, whose numbers are those of `flagAlu`. -/
theorem exec_of_flagAlu {i : Instr} {s : State} {x : Nibble} {r f : Nat} (h : flagAlu s i = some (x, r, f)) :
    ∃ (b : Byte) (c : Bool), b.toNat = r ∧ (flagByte c).toNat = f ∧ exec i s = .next (s.advance.setResultAndFlag x b c) := by
  cases i <;> simp only [flagAlu, reduceCtorEq, shifted_eq] at h
  case addReg y => cases h; exact ⟨_, _, BitVec.toNat_add _ _, flagByte_decide_toNat _, rfl⟩
  case subReg y => cases h; exact ⟨_, _, by bv_omega, flagByte_decide_toNat _, rfl⟩
  case subn y => cases h; exact ⟨_, _, by bv_omega, flagByte_decide_toNat _, rfl⟩
  case shr y => cases h; exact ⟨_, _, by simp [Nat.shiftRight_eq_div_pow], flagByte_lowBit_toNat _, rfl⟩
  case shl y => cases h; exact ⟨_, _, by simp [Nat.shiftLeft_eq, Nat.mul_comm], flagByte_highBit_toNat _, rfl⟩

/-- Settles O22: the flag is written last, so VF holds it for every `X`, and `V[X]` the result for every other. -/
theorem flagArithmeticWritesResultThenFlag : Obligations.FlagArithmeticWritesResultThenFlag := by
  unfold Obligations.FlagArithmeticWritesResultThenFlag
  intro i s x r f h
  obtain ⟨b, c, hb, hc, hexec⟩ := exec_of_flagAlu h
  refine ⟨encodedAsSpelled i, _, hexec, ?_, fun hx => ?_, keepsRegsBut_setResultAndFlag s.advance x b c, rfl, ?_⟩
  · exact (congrArg BitVec.toNat (State.reg_setReg_same _ vf (flagByte c))).trans hc
  · have hvf : x ≠ vf := hx
    rw [State.reg_setResultAndFlag, if_neg hvf, if_pos rfl, hb]
  · exact keepsAllBut_of_advance (keepsAllBut_setResultAndFlag s.advance x b c)

/-- Settles O23: the byte read is the byte consumed, and `V[X]` is its masked value. -/
theorem randomByteIsMaskedAndConsumedOnce : Obligations.RandomByteIsMaskedAndConsumedOnce := by
  unfold Obligations.RandomByteIsMaskedAndConsumedOnce
  refine fun x nn => ⟨encodedAsSpelled _, fun s => ⟨_, exec_of_errorOf_none rfl, fun r rest hin => ?_, fun hin => ?_,
    completed_keepsRegsBut (.rnd x nn) s, completed_pc _ s, keepsAllBut_completed s (by simp [writes])⟩⟩
  · simp only [completed, randomByte, consumeRandom, hin]
    exact ⟨by simp, rfl, rfl⟩
  · simp only [completed, randomByte, consumeRandom, hin]
    exact ⟨by simp, rfl, rfl⟩

end Sys2Proof.Alu
end

section
/-! SUPPORT. The statements of the family 40_flow.md about call and offset jump (rules R84, R89). -/

namespace Sys2Proof.Flow

open Sys2Proof.Machine Sys2Proof.Claims Sys2Proof.Encoding Sys2Proof.Frames Sys2Proof.Exec

/-- Settles O25: with room the push and the jump are the two writes; a full stack is the listed error. -/
theorem callPushesTheReturnAddress : Obligations.CallPushesTheReturnAddress := by
  unfold Obligations.CallPushesTheReturnAddress
  refine fun nnn => ⟨encodedAsSpelled _, fun s => ⟨fun hroom => ?_, fun hfull => failsWith_of_errorOf (if_pos hfull)⟩⟩
  exact ⟨_, exec_call_of_room nnn hroom, rfl, rfl, zext16_toNat nnn,
    keepsAllBut_mono (by decide) (keepsAllBut_trans (keepsAllBut_setStack s _) (keepsAllBut_setPc _ _))⟩

/-- Settles O28: the only write is `PC`, and the sum fits in it. -/
theorem offsetJumpAddsTheRegister : Obligations.OffsetJumpAddsTheRegister := by
  unfold Obligations.OffsetJumpAddsTheRegister
  refine fun nnn => ⟨encodedAsSpelled _, fun s => ⟨_, exec_of_errorOf_none rfl, ?_, keepsAllBut_completed s (by simp [writes])⟩⟩
  have hle := offsetTarget_le s nnn
  rw [completed_pc, pcAfter, BitVec.toNat_ofNat]
  omega

end Sys2Proof.Flow
end

section
/-! SUPPORT. The statements of the family 42_index_memory.md about the sum into `I` and the memory moves (rules R121, R123 to R125), and of the range
check before them (R46). -/

namespace Sys2Proof.IndexMemory

open Sys2Proof.Machine Sys2Proof.Claims Sys2Proof.Encoding Sys2Proof.Frames Sys2Proof.Exec Sys2Proof.Cycle

/-! The range check. -/

theorem rangeError_eq_none_iff (first count : Nat) : rangeError first count = none ↔ ∀ k, k < count → first + k < 4096 := by
  obtain ⟨hin, h⟩ | ⟨hne, hout, h⟩ := rangeError_cases first count <;> simp only [h, Config.memSize] at *
  · simp only [true_iff]
    omega
  · simp only [reduceCtorEq, false_iff, not_forall]
    exact ⟨count - 1, by omega, by omega⟩

theorem memRead_eq_ok_iff (a : Nat) (s : State) : memRead a s = .ok (s.byte a) ↔ a < 4096 := by
  rw [← Nat.not_le]
  by_cases h : 4096 ≤ a <;> simp [memRead, Config.memSize, h]

theorem memWrite_eq_ok_iff (a : Nat) (v : Byte) (s : State) :
    memWrite a v s = .ok (s.setMem (Memory.write s.mem a v)) ↔ a < 4096 := by
  rw [← Nat.not_le]
  by_cases h : 4096 ≤ a <;> simp [memWrite, Config.memSize, h]

/-- Settles O37: all three checks say that each address of the range exists. -/
theorem rangeCheckAgreesWithByteChecks : Obligations.RangeCheckAgreesWithByteChecks := by
  unfold Obligations.RangeCheckAgreesWithByteChecks
  intro first count s v
  simp only [memRead_eq_ok_iff, memWrite_eq_ok_iff, rangeError_eq_none_iff, and_self]

/-! FX1E (rule R121). -/

theorem index_add_toNat (i : Word) (b : Byte) : (i + b.setWidth 16).toNat = (i.toNat + b.toNat) % 65536 := by
  rw [BitVec.toNat_add, BitVec.toNat_setWidth_of_le (by decide)]

theorem completed_addIndex_index (x : Nibble) (s : State) :
    (completed s (.addIndex x)).index = s.index + (s.reg x).setWidth 16 := by
  obtain ⟨-, h⟩ | ⟨-, h⟩ := completed_addIndex_cases x s <;> rw [h] <;> rfl

/-- Settles O30: both arms write the sum, and the one under the quirk on overflow sets VF. -/
theorem addToIndexWrapsAndFlags : Obligations.AddToIndexWrapsAndFlags := by
  unfold Obligations.AddToIndexWrapsAndFlags
  refine fun x => ⟨encodedAsSpelled _, fun s => ⟨_, exec_of_errorOf_none rfl, ?_, ?_,
    completed_keepsRegsBut (.addIndex x) s, completed_pc _ s, keepsAllBut_completed s (by simp [writes])⟩⟩
  · rw [completed_addIndex_index, index_add_toNat]
  · obtain ⟨hover, h⟩ | ⟨hfits, h⟩ := completed_addIndex_cases x s <;> rw [h]
    · rw [if_pos hover]
      exact congrArg BitVec.toNat (State.reg_setReg_same _ vf (flagByte true))
    · rw [if_neg hfits]
      rfl

/-! Stored bytes. -/

theorem byte_writeBytes {s : State} (hwf : Memory.wf s.mem = true) (bs : List Byte) {k : Nat} (hk : k < bs.length) :
    Memory.read (Memory.writeBytes s.mem s.index.toNat bs) (s.index.toNat + k) = bs[k] :=
  Memory.read_writeBytes_inside bs s.mem s.index.toNat k hk (rising_of_wf hwf)

/-- The three digits as numbers: none needs more than a byte (rule R123). -/
theorem bcdDigits_toNat (b : Byte) :
    (BitVec.ofNat 8 (b.toNat / 100)).toNat = b.toNat / 100 ∧ (BitVec.ofNat 8 (b.toNat / 10 % 10)).toNat = b.toNat / 10 % 10 ∧
    (BitVec.ofNat 8 (b.toNat % 10)).toNat = b.toNat % 10 := by
  have := b.isLt
  simp only [BitVec.toNat_ofNat]
  omega

/-- Settles O31: the three digits are the three bytes written, in order; the range check is the listed error. -/
theorem bcdStoresThreeDecimalDigits : Obligations.BcdStoresThreeDecimalDigits := by
  unfold Obligations.BcdStoresThreeDecimalDigits
  refine fun x => ⟨encodedAsSpelled _, fun s hwf => ⟨fun hin => ?_, fun hout => failsWith_of_errorOf (if_pos hout)⟩⟩
  have hok : errorOf s (.ldBcd x) = none := if_neg (Nat.not_lt.mpr hin)
  obtain ⟨hhundreds, htens, hones⟩ := bcdDigits_toNat (s.reg x)
  have hbyte {k : Nat} (hk : k < 3) := byte_writeBytes hwf (bcdDigits (s.reg x)) hk
  refine ⟨_, exec_of_errorOf_none hok, ?_, ?_, ?_, completed_keepsBytesOutside (.ldBcd x) s, completed_pc _ s,
    keepsAllBut_completed s (by simp [writes])⟩
  · exact (congrArg BitVec.toNat (hbyte (k := 0) (by decide))).trans hhundreds
  · exact (congrArg BitVec.toNat (hbyte (k := 1) (by decide))).trans htens
  · exact (congrArg BitVec.toNat (hbyte (k := 2) (by decide))).trans hones

/-! Block moves (rules R124, R125). -/

theorem regsUpTo_getElem {x k : Nibble} (s : State) (h : k.val < (regsUpTo x s).length) :
    (regsUpTo x s)[k.val] = s.reg k := by
  simp [regsUpTo, State.reg]

theorem byte_completed_storeRegs {x k : Nibble} {s : State} (hwf : Memory.wf s.mem = true) (hk : k ≤ x) :
    (completed s (.storeRegs x)).byte (s.index.toNat + k.val) = s.reg k := by
  have hlen : k.val < (regsUpTo x s).length := by
    rw [regsUpTo_length]
    exact Nat.lt_succ_of_le hk
  exact (byte_writeBytes hwf (regsUpTo x s) hlen).trans (regsUpTo_getElem s hlen)

theorem reg_completed_loadRegs (x k : Nibble) (s : State) :
    (completed s (.loadRegs x)).reg k = if k ≤ x then s.byte (s.index.toNat + k.val) else s.reg k := by
  simp [completed, State.reg, regsFromMem]

/-- The block lies in memory, so `I` after it is at most 0x1000 and does not wrap. -/
theorem indexAfterBlock_toNat {x : Nibble} {s : State} (hin : s.index.toNat + x.val ≤ 0xFFF) :
    (indexAfterBlock x s).toNat = if s.quirks.indexAutoincrement then s.index.toNat + x.val + 1 else s.index.toNat := by
  unfold indexAfterBlock
  split
  · rw [BitVec.toNat_add, BitVec.toNat_ofNat]
    omega
  · rfl

/-- Settles O32: the bytes written are the registers in order; the range check is the listed error. -/
theorem blockStoreWritesTheRegisters : Obligations.BlockStoreWritesTheRegisters := by
  unfold Obligations.BlockStoreWritesTheRegisters
  refine fun x => ⟨encodedAsSpelled _, fun s hwf => ⟨fun hin => ?_, fun hout => failsWith_of_errorOf (if_pos hout)⟩⟩
  have hok : errorOf s (.storeRegs x) = none := if_neg (Nat.not_lt.mpr hin)
  exact ⟨_, exec_of_errorOf_none hok, fun _ => byte_completed_storeRegs hwf, completed_keepsBytesOutside (.storeRegs x) s,
    indexAfterBlock_toNat hin, completed_pc _ s, keepsAllBut_completed s (by simp [writes])⟩

/-- Settles O33: the registers up to `X` are the bytes at `I` on; the range check is the listed error. -/
theorem blockLoadReadsTheRegisters : Obligations.BlockLoadReadsTheRegisters := by
  unfold Obligations.BlockLoadReadsTheRegisters
  refine fun x => ⟨encodedAsSpelled _, fun s => ⟨fun hin => ?_, fun hout => failsWith_of_errorOf (if_pos hout)⟩⟩
  have hok : errorOf s (.loadRegs x) = none := if_neg (Nat.not_lt.mpr hin)
  refine ⟨_, exec_of_errorOf_none hok, fun k hk => ?_, fun k hk => ?_, indexAfterBlock_toNat hin, completed_pc _ s,
    keepsAllBut_completed s (by simp [writes])⟩
  · rw [reg_completed_loadRegs, if_pos hk]
  · rw [reg_completed_loadRegs, if_neg (Fin.not_le.mpr hk)]

/-- Settles O34: the bytes the load reads are the ones the store wrote, at the same `I`. -/
theorem blockLoadUndoesBlockStore : Obligations.BlockLoadUndoesBlockStore := by
  unfold Obligations.BlockLoadUndoesBlockStore
  intro x s t v hwf hin hstore
  have hok : errorOf s (.storeRegs x) = none := if_neg (Nat.not_lt.mpr hin)
  cases (exec_of_errorOf_none hok).symm.trans hstore
  have hok' : errorOf (((completed s (.storeRegs x)).setIndex s.index).setRegs v) (.loadRegs x) = none := if_neg (Nat.not_lt.mpr hin)
  refine ⟨_, exec_of_errorOf_none hok', fun k => ?_⟩
  rw [reg_completed_loadRegs]
  by_cases hk : k ≤ x
  · rw [if_pos hk, if_pos hk]
    exact byte_completed_storeRegs hwf hk
  · rw [if_neg hk, if_neg hk]
    rfl

end Sys2Proof.IndexMemory
end

section
/-! SUPPORT. The statements of the family 44_keypad_timers.md about the keys (rules R150 to R152). -/

namespace Sys2Proof.Keypad

open Sys2Proof.Machine Sys2Proof.Claims Sys2Proof.Encoding Sys2Proof.Frames Sys2Proof.Exec

/-- Settles O43: the only write is `PC`, by the key's bit; a value that is no hexkey is the listed error. -/
theorem keySkipsTestTheSnapshot : Obligations.KeySkipsTestTheSnapshot := by
  unfold Obligations.KeySkipsTestTheSnapshot
  refine fun x => ⟨encodedAsSpelled _, encodedAsSpelled _, fun s => ⟨fun hle => ?_, fun hbig => ?_⟩⟩
  · have hskp : errorOf s (.skp x) = none := if_neg (Nat.not_lt.mpr hle)
    have hsknp : errorOf s (.sknp x) = none := if_neg (Nat.not_lt.mpr hle)
    exact ⟨⟨_, exec_of_errorOf_none hskp, rfl, keepsAllBut_setPc s _⟩, ⟨_, exec_of_errorOf_none hsknp, rfl, keepsAllBut_setPc s _⟩⟩
  · exact ⟨failsWith_of_errorOf (if_pos hbig), failsWith_of_errorOf (if_pos hbig)⟩

theorem newKeys_getLsbD {s : State} {k : Nat} (hk : k < 16) :
    (newKeys s).getLsbD k = true ↔ s.keys.getLsbD k = true ∧ s.kprev.getLsbD k = false := by
  simp [newKeys, hk]

/-- With no key newly down the instruction waits. -/
theorem completed_ldKey_of_none (x : Nibble) {s : State}
    (h : ∀ k, k < 16 → s.keys.getLsbD k = true → s.kprev.getLsbD k = true) : completed s (.ldKey x) = s.setKprev s.keys := by
  obtain ⟨-, hdone⟩ | ⟨k, hk, hbit, -, -⟩ := completed_ldKey_cases x s
  · exact hdone
  · obtain ⟨hdown, hnew⟩ := (newKeys_getLsbD hk).mp hbit
    rw [h k hk hdown] at hnew
    cases hnew

/-- The lowest key newly down is the one taken. -/
theorem completed_ldKey_of_lowest (x : Nibble) {s : State} {k : Nat} (hk : k < 16) (hdown : s.keys.getLsbD k = true)
    (hnew : s.kprev.getLsbD k = false) (hlow : ∀ j, j < k → s.keys.getLsbD j = true → s.kprev.getLsbD j = true) :
    completed s (.ldKey x) = (s.advance.setKprev s.keys).setReg x (BitVec.ofNat 8 k) := by
  have hbit := (newKeys_getLsbD hk).mpr ⟨hdown, hnew⟩
  obtain ⟨hnone, -⟩ | ⟨m, hm, hmbit, hmlow, hdone⟩ := completed_ldKey_cases x s
  · rw [hnone] at hbit
    simp at hbit
  · obtain hlt | rfl | hgt := Nat.lt_trichotomy m k
    · obtain ⟨hmdown, hmnew⟩ := (newKeys_getLsbD hm).mp hmbit
      rw [hlow m hlt hmdown] at hmnew
      cases hmnew
    · exact hdone
    · rw [hmlow k hgt] at hbit
      cases hbit

/-- Settles O44: the two arms of the wait; a key's number fits in a byte. -/
theorem keyWaitTakesTheLowestNewKey : Obligations.KeyWaitTakesTheLowestNewKey := by
  unfold Obligations.KeyWaitTakesTheLowestNewKey
  refine fun x => ⟨encodedAsSpelled _, fun s => ⟨fun hnone => ?_, fun k hk hdown hnew hlow => ?_⟩⟩
  · have hexec := exec_of_errorOf_none (i := .ldKey x) (s := s) rfl
    rw [completed_ldKey_of_none x hnone] at hexec
    exact ⟨_, hexec, rfl, keepsAllBut_setKprev s _⟩
  · have hexec := exec_of_errorOf_none (i := .ldKey x) (s := s) rfl
    rw [completed_ldKey_of_lowest x hk hdown hnew hlow] at hexec
    refine ⟨_, hexec, ?_, rfl, rfl, keepsRegsBut_setReg (s.advance.setKprev s.keys) x _, ?_⟩
    · rw [State.reg_setReg_same, BitVec.toNat_ofNat]
      omega
    · exact keepsAllBut_mono (by decide)
        (keepsAllBut_advance_then (keepsAllBut_trans (keepsAllBut_setKprev s.advance s.keys) (keepsAllBut_setReg _ x _)))

end Sys2Proof.Keypad
end

section
/-! SUPPORT. A drawing as the XOR with a mask: one cell, one row, one sprite; and the statements of the family 43_display.md about DXYN (rules R136,
R138, R139). -/

namespace Sys2Proof.Screen

open Sys2Proof.Machine Sys2Proof.Claims Sys2Proof.Encoding Sys2Proof.Frames Sys2Proof.Exec

/-- The mask lies on a cell of the screen that is on. -/
def Meets (d : Display) (m : Nat → Nat → Bool) : Prop := ∃ x y, x < 64 ∧ y < 32 ∧ d.get x y = true ∧ m x y = true

/-- `e` is `d` with the mask drawn on it: each cell of the screen is XORed with the mask's, and a lit cell under the mask is a hit (rule R136). -/
structure Drawn (d e : Drawing) (m : Nat → Nat → Bool) : Prop where
  cell : ∀ x y, x < 64 → y < 32 → e.disp.get x y = (d.disp.get x y ^^ m x y)
  hit : e.hit = true ↔ d.hit = true ∨ Meets d.disp m

theorem drawn_refl (d : Drawing) : Drawn d d fun _ _ => false where
  cell := by simp
  hit := by simp [Meets]

theorem drawn_congr {d e : Drawing} {m m' : Nat → Nat → Bool} (h : Drawn d e m) (hm : ∀ x y, x < 64 → y < 32 → m x y = m' x y) :
    Drawn d e m' where
  cell x y hx hy := by rw [h.cell x y hx hy, hm x y hx hy]
  hit := by
    rw [h.hit]
    refine or_congr_right (exists_congr fun x => exists_congr fun y => and_congr_right fun hx => and_congr_right fun hy => ?_)
    rw [hm x y hx hy]

/-- Masks drawn one after the other that share no cell are drawn as one: the second meets the cells the first left alone. -/
theorem drawn_trans {d e f : Drawing} {m n : Nat → Nat → Bool} (hde : Drawn d e m) (hef : Drawn e f n)
    (hdisj : ∀ x y, m x y = true → n x y = false) : Drawn d f fun x y => m x y || n x y where
  cell x y hx hy := by
    have := hdisj x y
    rw [hef.cell x y hx hy, hde.cell x y hx hy]
    cases hm : m x y <;> simp_all
  hit := by
    have hmeet : Meets e.disp n ↔ Meets d.disp n := by
      refine exists_congr fun x => exists_congr fun y => and_congr_right fun hx => and_congr_right fun hy => and_congr_left fun hn => ?_
      have hm : m x y = false := by
        cases hm : m x y with
        | false => rfl
        | true => exact absurd (hdisj x y hm) (by simp [hn])
      rw [hde.cell x y hx hy, hm, Bool.xor_false]
    have hor : Meets d.disp (fun x y => m x y || n x y) ↔ Meets d.disp m ∨ Meets d.disp n := by
      simp only [Meets, Bool.or_eq_true, and_or_left, exists_or]
    rw [hef.hit, hde.hit, hmeet, hor, or_assoc]

theorem drawn_toggle (d : Drawing) {x y : Nat} (hx : x < 64) (hy : y < 32) :
    Drawn d (d.toggle x y) fun x' y' => decide (x' = x ∧ y' = y) where
  cell x' y' _ _ := by
    rw [Drawing.toggle, Display.get_set _ _ _ _ _ _ hx hy]
    by_cases h : x' = x ∧ y' = y
    · obtain ⟨rfl, rfl⟩ := h
      simp
    · simp [h]
  hit := by
    have hmeet : Meets d.disp (fun x' y' => decide (x' = x ∧ y' = y)) ↔ d.disp.get x y = true := by
      constructor
      · rintro ⟨x', y', -, -, hon, hcell⟩
        obtain ⟨rfl, rfl⟩ := of_decide_eq_true hcell
        exact hon
      · exact fun hon => ⟨x, y, hx, hy, hon, by simp⟩
    rw [hmeet, Drawing.toggle, Bool.or_eq_true]

/-- The first `n` columns of a sprite row: column `c` is bit `7 - c` of its byte (rule R138). -/
def rowMask (b : Byte) (x0 y n : Nat) (x' y' : Nat) : Bool :=
  decide (y' = y ∧ x0 ≤ x' ∧ x' < x0 + n) && b.getLsbD (7 - (x' - x0))

/-- Column `c` of a row as a mask of one cell; past the screen it covers none of its cells. -/
theorem drawn_bit (b : Byte) (x0 : Nat) {y : Nat} (hy : y < 32) (d : Drawing) (c : Nat) :
    Drawn d (Drawing.bit b x0 y d c) fun x' y' => decide (x' = x0 + c ∧ y' = y) && b.getLsbD (7 - c) := by
  unfold Drawing.bit
  split
  · next h =>
    refine drawn_congr (drawn_toggle d h.1 hy) fun x' y' _ _ => ?_
    rw [h.2, Bool.and_true]
  · next h =>
    refine drawn_congr (drawn_refl d) fun x' y' hx' _ => ?_
    by_cases hcell : x' = x0 + c ∧ y' = y
    · have hbit : ¬b.getLsbD (7 - c) = true := fun hbit => h ⟨hcell.1 ▸ hx', hbit⟩
      simp [hbit]
    · simp [hcell]

theorem rowMask_succ (b : Byte) (x0 y n x' y' : Nat) :
    rowMask b x0 y (n + 1) x' y' = (rowMask b x0 y n x' y' || (decide (x' = x0 + n ∧ y' = y) && b.getLsbD (7 - n))) := by
  unfold rowMask
  by_cases hlast : x' = x0 + n
  · subst hlast
    simp
  · have hsame : (y' = y ∧ x0 ≤ x' ∧ x' < x0 + (n + 1)) ↔ (y' = y ∧ x0 ≤ x' ∧ x' < x0 + n) := by omega
    simp [hlast, hsame]

theorem drawn_columns (b : Byte) (x0 : Nat) {y : Nat} (hy : y < 32) (d : Drawing) (n : Nat) :
    Drawn d ((List.range n).foldl (Drawing.bit b x0 y) d) (rowMask b x0 y n) := by
  induction n with
  | zero =>
    refine drawn_congr (drawn_refl d) fun x' y' _ _ => ?_
    simp [rowMask]
  | succ n ih =>
    rw [List.range_succ, List.foldl_append]
    refine drawn_congr (drawn_trans ih (drawn_bit b x0 hy _ n) fun x' y' hin => ?_) fun x' y' _ _ => (rowMask_succ b x0 y n x' y').symm
    have hlt : x' < x0 + n := by
      simp only [rowMask, Bool.and_eq_true, decide_eq_true_eq] at hin
      exact hin.1.2.2
    have hne : ¬(x' = x0 + n ∧ y' = y) := by omega
    simp [hne]

/-- The rows `bs` from row `y0` down: row `r` is the byte `bs[r]`. -/
def spriteMask (x0 : Nat) (y0 : Nat) (bs : List Byte) (x' y' : Nat) : Bool :=
  decide (x0 ≤ x' ∧ x' < x0 + 8 ∧ y0 ≤ y' ∧ y' < y0 + bs.length) && (bs.getD (y' - y0) 0).getLsbD (7 - (x' - x0))

theorem spriteMask_cons (x0 y0 : Nat) (b : Byte) (bs : List Byte) (x' y' : Nat) :
    spriteMask x0 y0 (b :: bs) x' y' = (rowMask b x0 y0 8 x' y' || spriteMask x0 (y0 + 1) bs x' y') := by
  unfold spriteMask rowMask
  obtain hlt | rfl | hgt := Nat.lt_trichotomy y' y0
  · have hcons : ¬(x0 ≤ x' ∧ x' < x0 + 8 ∧ y0 ≤ y' ∧ y' < y0 + (b :: bs).length) := by omega
    have hrow : ¬(y' = y0 ∧ x0 ≤ x' ∧ x' < x0 + 8) := by omega
    have hrest : ¬(x0 ≤ x' ∧ x' < x0 + 8 ∧ y0 + 1 ≤ y' ∧ y' < y0 + 1 + bs.length) := by omega
    simp only [hcons, hrow, hrest, decide_false, Bool.false_and, Bool.or_self]
  · simp
  · have hrow : ¬(y' = y0 ∧ x0 ≤ x' ∧ x' < x0 + 8) := by omega
    have hcons : (x0 ≤ x' ∧ x' < x0 + 8 ∧ y0 ≤ y' ∧ y' < y0 + (b :: bs).length) ↔
        (x0 ≤ x' ∧ x' < x0 + 8 ∧ y0 + 1 ≤ y' ∧ y' < y0 + 1 + bs.length) := by
      rw [List.length_cons]
      omega
    have hsub : y' - y0 = y' - (y0 + 1) + 1 := by omega
    simp only [hcons, hrow, hsub, List.getD_cons_succ, decide_false, Bool.false_and, Bool.false_or]

theorem drawn_rows (x0 y0 : Nat) (bs : List Byte) (d : Drawing) : Drawn d (Drawing.rows x0 y0 bs d) (spriteMask x0 y0 bs) := by
  induction bs generalizing y0 d with
  | nil =>
    refine drawn_congr (drawn_refl d) fun x' y' _ _ => ?_
    simp [spriteMask]
  | cons b bs ih =>
    have hrow : Drawn d (if y0 < Config.dispH then d.row b x0 y0 else d) (rowMask b x0 y0 8) := by
      split
      · next hy => exact drawn_columns b x0 hy d 8
      · next hy =>
        refine drawn_congr (drawn_refl d) fun x' y' _ hy' => ?_
        have hout : ¬(y' = y0 ∧ x0 ≤ x' ∧ x' < x0 + 8) := fun h => hy (h.1 ▸ hy')
        simp [rowMask, hout]
    refine drawn_congr (drawn_trans hrow (ih (y0 + 1) _) fun x' y' hin => ?_) fun x' y' _ _ => (spriteMask_cons x0 y0 b bs x' y').symm
    have hy' : y' = y0 := by
      simp only [rowMask, Bool.and_eq_true, decide_eq_true_eq] at hin
      exact hin.1.1
    have hout : ¬(x0 ≤ x' ∧ x' < x0 + 8 ∧ y0 + 1 ≤ y' ∧ y' < y0 + 1 + bs.length) := by omega
    rw [spriteMask, decide_eq_false hout, Bool.false_and]

/-! DXYN (rules R136, R139). -/

section
variable (vx vy n : Nibble) (s : State)

/-- The mask of the sprite's bytes in memory is the covering of rule R138. -/
theorem spriteMask_eq_covered (x y : Nat) :
    spriteMask (originX vx s) (originY vy s) (spriteRows n s) x y = covered s vx vy n x y := by
  have hlen : (spriteRows n s).length = n.val := by simp [spriteRows, Memory.readBytes]
  rw [spriteMask, covered, hlen]
  by_cases hin : originX vx s ≤ x ∧ x < originX vx s + 8 ∧ originY vy s ≤ y ∧ y < originY vy s + n.val
  · have hrow : y - originY vy s < n.val := by omega
    have hbyte : (spriteRows n s).getD (y - originY vy s) 0 = s.byte (s.index.toNat + (y - originY vy s)) := by
      simp [spriteRows, Memory.readBytes, hrow, State.byte]
    rw [hbyte]
    rfl
  · rw [decide_eq_false hin, Bool.false_and]
    exact (Bool.and_eq_false_iff.mpr (.inl (decide_eq_false hin))).symm

theorem drawn_covered :
    Drawn ⟨s.disp, false⟩ (s.disp.draw (originX vx s) (originY vy s) (spriteRows n s)) (covered s vx vy n) :=
  drawn_congr (drawn_rows _ _ _ _) fun x y _ _ => spriteMask_eq_covered vx vy n s x y

theorem completed_drw_cell {x y : Nat} (hx : x < 64) (hy : y < 32) :
    (completed s (.drw vx vy n)).disp.get x y = (s.disp.get x y ^^ covered s vx vy n x y) :=
  (drawn_covered vx vy n s).cell x y hx hy

/-- VF is written last, with the collision. -/
theorem completed_drw_flag :
    (Meets s.disp (covered s vx vy n) ∧ (completed s (.drw vx vy n)).reg 15 = 1) ∨
    (¬Meets s.disp (covered s vx vy n) ∧ (completed s (.drw vx vy n)).reg 15 = 0) := by
  have hhit := (drawn_covered vx vy n s).hit
  have hflag : (completed s (.drw vx vy n)).reg 15 =
      flagByte (s.disp.draw (originX vx s) (originY vy s) (spriteRows n s)).hit := State.reg_setReg_same _ vf _
  rw [hflag]
  cases h : (s.disp.draw (originX vx s) (originY vy s) (spriteRows n s)).hit <;> simp only [h, false_or, Bool.false_eq_true] at hhit
  · exact .inr ⟨hhit.mpr, rfl⟩
  · exact .inl ⟨hhit.mp trivial, rfl⟩

theorem completed_drw_flag_eq_one_iff : (completed s (.drw vx vy n)).reg 15 = 1 ↔ Meets s.disp (covered s vx vy n) := by
  obtain ⟨hmeet, hflag⟩ | ⟨hmiss, hflag⟩ := completed_drw_flag vx vy n s
  · simp [hmeet, hflag]
  · simp [hmiss, hflag]

theorem completed_drw_flag_eq_zero_iff : (completed s (.drw vx vy n)).reg 15 = 0 ↔ ¬Meets s.disp (covered s vx vy n) := by
  obtain ⟨hmeet, hflag⟩ | ⟨hmiss, hflag⟩ := completed_drw_flag vx vy n s
  · simp [hmeet, hflag]
  · simp [hmiss, hflag]

variable {n s} in
theorem errorOf_drw_of_inMemory (h : spriteInMemory s n) : errorOf s (.drw vx vy n) = none := by
  unfold spriteInMemory at h
  exact if_neg (by omega)

variable {n s} in
theorem errorOf_drw_of_not_inMemory (h : ¬spriteInMemory s n) : errorOf s (.drw vx vy n) = some .memoryOverrun := by
  unfold spriteInMemory at h
  exact if_pos (by omega)

/-- The covering reads two registers, `I` and memory. -/
theorem covered_congr {s t : State} {vx vy n : Nibble} (hx : t.reg vx = s.reg vx) (hy : t.reg vy = s.reg vy) (hindex : t.index = s.index)
    (hbyte : ∀ a, t.byte a = s.byte a) : covered t vx vy n = covered s vx vy n := by
  funext x y
  simp only [covered, hx, hy, hindex, hbyte]

end

/-- Settles O39: the drawing is the XOR with the covering, its hit is what VF holds, and the range check is the listed error. -/
theorem drawXorsTheClippedSprite : Obligations.DrawXorsTheClippedSprite := by
  unfold Obligations.DrawXorsTheClippedSprite
  refine fun vx vy n => ⟨encodedAsSpelled _, fun s => ⟨fun hin => ?_, fun hout =>
    failsWith_of_errorOf (errorOf_drw_of_not_inMemory vx vy hout)⟩⟩
  refine ⟨_, exec_of_errorOf_none (errorOf_drw_of_inMemory vx vy hin), fun _ _ => completed_drw_cell vx vy n s,
    (completed_drw_flag_eq_one_iff vx vy n s).mpr, fun hoff => (completed_drw_flag_eq_zero_iff vx vy n s).mpr ?_,
    completed_keepsRegsBut (.drw vx vy n) s, completed_pc _ s, keepsAllBut_completed s (by simp [writes])⟩
  rintro ⟨x, y, hx, hy, hon, hcov⟩
  rw [hoff x y hx hy hon] at hcov
  cases hcov

/-- Settles O40: the second draw XORs the same covering, which meets the XORed display where it covers cells that were off. -/
theorem drawingTwiceRestoresTheDisplay : Obligations.DrawingTwiceRestoresTheDisplay := by
  unfold Obligations.DrawingTwiceRestoresTheDisplay
  intro vx vy n s t hin hexec hx hy
  cases (exec_of_errorOf_none (errorOf_drw_of_inMemory vx vy hin)).symm.trans hexec
  have hin' : spriteInMemory (completed s (.drw vx vy n)) n := hin
  have hcov : covered (completed s (.drw vx vy n)) vx vy n = covered s vx vy n := covered_congr hx hy rfl fun _ => rfl
  have hsecond : Meets (completed s (.drw vx vy n)).disp (covered s vx vy n) ↔
      ∃ x y, x < 64 ∧ y < 32 ∧ s.disp.get x y = false ∧ covered s vx vy n x y = true := by
    refine exists_congr fun x => exists_congr fun y => and_congr_right fun hx => and_congr_right fun hy => and_congr_left fun hc => ?_
    simp [completed_drw_cell vx vy n s hx hy, hc]
  refine ⟨_, exec_of_errorOf_none (errorOf_drw_of_inMemory vx vy hin'), fun x y hx hy => ?_, ?_, fun hzero => ?_⟩
  · rw [completed_drw_cell _ _ _ _ hx hy, completed_drw_cell _ _ _ _ hx hy, hcov, Bool.xor_assoc, Bool.xor_self, Bool.xor_false]
  · rw [completed_drw_flag_eq_one_iff, hcov, hsecond]
  · have hmiss := (completed_drw_flag_eq_zero_iff vx vy n s).mp hzero
    rw [completed_drw_flag_eq_one_iff, hcov, hsecond]
    refine exists_congr fun x => exists_congr fun y => and_congr_right fun hx => and_congr_right fun hy => and_iff_right_of_imp fun hc => ?_
    exact Bool.eq_false_iff.mpr fun hon => hmiss ⟨x, y, hx, hy, hon, hc⟩

/-- Settles O41: no cell of the cleared display is on, so no covering meets it. -/
theorem drawAfterClearNeverCollides : Obligations.DrawAfterClearNeverCollides := by
  unfold Obligations.DrawAfterClearNeverCollides
  intro vx vy n s t hin hcls
  cases (exec_cls s).symm.trans hcls
  have hin' : spriteInMemory (s.advance.setDisp Display.clear) n := hin
  refine ⟨_, exec_of_errorOf_none (errorOf_drw_of_inMemory vx vy hin'), (completed_drw_flag_eq_zero_iff vx vy n _).mpr ?_⟩
  rintro ⟨x, y, -, -, hon, -⟩
  cases (Display.get_clear x y).symm.trans hon

end Sys2Proof.Screen
end
